-- ==== Sys2Proof/Word.lean ====
section
/-! DEFINITION. Words: the widths the spec treats as bits (00_scope.md R11). -/

namespace Sys2Proof

/-- A byte: an unsigned 8-bit value (R11). -/
abbrev Byte := BitVec 8

/-- `u16`: an unsigned 16-bit value (R11). -/
abbrev Half := BitVec 16

/-- The width of `REQ` and `ARG_LIM` (R24, R27). -/
abbrev Word := BitVec 32

/-- Bits `[15:8]` of a 16-bit value. -/
def hiByte (v : Half) : Byte := v.extractLsb' 8 8

/-- Bits `[7:0]` of a 16-bit value. -/
def loByte (v : Half) : Byte := v.extractLsb' 0 8

end Sys2Proof
end

