-- ==== Sys2Proof/Syntax.lean ====
section
/-! DEFINITION. Syntax: the operations a host requests through the request word, one constructor per row of
spec/opcode_table.json, the names their fields take (30_encoding.md R71 to R76, R88, R89), and the names of the registers the host reads and
writes. -/

namespace Sys2Proof

/-- The register kinds with one group, a transmit mirror and a receive mirror (R33). -/
inductive SingleKind where
  | cfga | cfgb | comm | pwma | pwmb | sctrla | sctrlb
  deriving DecidableEq, Repr, Inhabited

/-- The register kinds with several groups and no transmit mirror (R34 to R36). -/
inductive MultiKind where
  | cv | aux | stat
  deriving DecidableEq, Repr, Inhabited

/-- The ten register kinds of R74. -/
inductive Kind where
  | single (k : SingleKind)
  | multi (k : MultiKind)
  deriving DecidableEq, Repr, Inhabited

/-- What the field `KIND` of a request holds: one of the ten kinds, or one of the codes `0xA` to `0xF`, which
R74 reserves. A reserved code is part of the syntax because the check that refuses it comes after the check of
`N` (R86, R184, R186). -/
inductive KindField where
  | named (k : Kind)
  | reserved (code : BitVec 4)
  deriving DecidableEq, Repr, Inhabited

/-- The direction of a register group's command word (R78). -/
inductive Dir where
  | wr | rd
  deriving DecidableEq, Repr, Inhabited

/-- The nine operations (R73). `n` is `total_ic`, `reg` the group selector, `numStat` the `REG` field of
`INIT_LIMITS`. -/
inductive Instr where
  | pec15
  | cmd
  | write (n : BitVec 8)
  | read (n : BitVec 8)
  | wakeIdle (n : BitVec 8)
  | wakeSleep (n : BitVec 8)
  | initLimits (numStat : BitVec 4)
  | wrgrp (kind : KindField) (reg : BitVec 4) (n : BitVec 8)
  | rdgrp (kind : KindField) (reg : BitVec 4) (n : BitVec 8)
  deriving DecidableEq, Repr, Inhabited

/-- Why a request word is no operation (R72, R85, R86). -/
inductive DecodeError where
  | reservedBits
  | reservedOp
  | unusedField
  deriving DecidableEq, Repr, Inhabited

/-- The pseudo-operations of R89, named after the source's functions. -/
inductive Pseudo where
  | wrcfga (n : BitVec 8)
  | wrcfgb (n : BitVec 8)
  | wrcomm (n : BitVec 8)
  | wrpwm (n : BitVec 8)
  | wrpwmb (n : BitVec 8)
  | wrsctrl (n : BitVec 8)
  | wrsctrlb (n : BitVec 8)
  | rdcfga (n : BitVec 8)
  | rdcfgb (n : BitVec 8)
  | rdcomm (n : BitVec 8)
  | rdpwm (n : BitVec 8)
  | rdpwmb (n : BitVec 8)
  | rdsctrl (n : BitVec 8)
  | rdsctrlb (n : BitVec 8)
  | rdcv (reg : BitVec 4) (n : BitVec 8)
  | rdaux (reg : BitVec 4) (n : BitVec 8)
  | rdstat (reg : BitVec 4) (n : BitVec 8)
  deriving DecidableEq, Repr, Inhabited

/-! ## The registers the host names (10_state.md R43) -/

/-- The six fields of `LIM`, as the host reads them (R31, R43). -/
inductive LimField where
  | cellCh | auxCh | statCh | numCv | numGpio | numStat
  deriving DecidableEq, Repr

/-- The registers the host may read and write (R43). -/
inductive RwReg where
  | req
  | argCmd
  | argLen
  | argLim
  | buf (i : BitVec 8)
  | isospiReverse (ic : Fin 32)
  | tx (ic : Fin 32) (k : SingleKind) (j : Fin 6)
  | crcCount (k : Kind)
  deriving DecidableEq, Repr

/-- The registers the host may only read (R43, and the never-written fields of R35 and R36). -/
inductive RoReg where
  | rxbuf (i : BitVec 8)
  | res
  | lim (f : LimField)
  | limValid
  | rx (ic : Fin 32) (k : SingleKind) (j : Fin 8)
  | pecErr (ic : Fin 32) (k : SingleKind)
  | cvRaw (ic : Fin 32) (g : Fin 6) (j : Fin 8)
  | cvPecErr (ic : Fin 32) (g : Fin 6)
  | cCode (ic : Fin 32) (i : Fin 18)
  | auxRaw (ic : Fin 32) (g : Fin 4) (j : Fin 8)
  | auxPecErr (ic : Fin 32) (g : Fin 4)
  | aCode (ic : Fin 32) (i : Fin 9)
  | statRaw (ic : Fin 32) (g : Fin 2) (j : Fin 8)
  | statPecErr (ic : Fin 32) (g : Fin 2)
  | statCode (ic : Fin 32) (i : Fin 4)
  | statFlags (ic : Fin 32) (i : Fin 3)
  | muxFail (ic : Fin 32)
  | thsd (ic : Fin 32)
  | rom (a : BitVec 8)
  deriving DecidableEq, Repr

/-- A register as the host names it (R43). -/
inductive HostReg where
  | rw (r : RwReg)
  | ro (r : RoReg)
  deriving DecidableEq, Repr

end Sys2Proof
end

