-- ==== Sys2Proof/WellFormed.lean ====
section
/-! DEFINITION. WellFormed: which instructions have a request word. Every field is a bit vector of its width in
the word, so the one thing to check is that a kind code written as reserved is one that R74 reserves. -/

namespace Sys2Proof

/-- `0xA` to `0xF` are the reserved kind codes (R74). -/
def KindField.wf : KindField → Bool
  | .named _ => true
  | .reserved code => decide (10 ≤ code.toNat)

/-- Every instruction of the syntax is well formed, but for a `WRGRP` or `RDGRP` whose kind is a code that names a
kind and yet is written as reserved. Whether the block accepts the operands (the range of `N`, the kind, the
group) is the machine's to say: those checks read its parameters and its state. -/
def Instr.wf : Instr → Bool
  | .pec15 => true
  | .cmd => true
  | .write _ => true
  | .read _ => true
  | .wakeIdle _ => true
  | .wakeSleep _ => true
  | .initLimits _ => true
  | .wrgrp kind _ _ => kind.wf
  | .rdgrp kind _ _ => kind.wf

end Sys2Proof
end

