-- ==== Sys2Proof/Decode.lean ====
section
/-! DEFINITION. Decode: the request word and back (30_encoding.md R71 to R77, R85 to R89). -/

namespace Sys2Proof

/-- `REQ[3:0]`. -/
def opField (w : Word) : BitVec 4 := w.extractLsb' 0 4
/-- `REQ[7:4]`. -/
def kindField (w : Word) : BitVec 4 := w.extractLsb' 4 4
/-- `REQ[11:8]`. -/
def regField (w : Word) : BitVec 4 := w.extractLsb' 8 4
/-- `REQ[19:12]`. -/
def nField (w : Word) : BitVec 8 := w.extractLsb' 12 8
/-- `REQ[31:20]`. -/
def reservedField (w : Word) : BitVec 12 := w.extractLsb' 20 12

/-- The kind codes of R74, in the order of that table. -/
def kindTable : List Kind :=
  [.single .cfga, .single .cfgb, .multi .cv, .multi .aux, .multi .stat,
   .single .comm, .single .pwma, .single .pwmb, .single .sctrla, .single .sctrlb]

/-- The kind a code names, or the reserved code itself (R74). -/
def decodeKind (code : BitVec 4) : KindField :=
  match kindTable[code.toNat]? with
  | some k => .named k
  | none => .reserved code

/-- The code of a kind (R74). -/
def Kind.code : Kind → BitVec 4
  | .single .cfga => 0x0
  | .single .cfgb => 0x1
  | .multi .cv => 0x2
  | .multi .aux => 0x3
  | .multi .stat => 0x4
  | .single .comm => 0x5
  | .single .pwma => 0x6
  | .single .pwmb => 0x7
  | .single .sctrla => 0x8
  | .single .sctrlb => 0x9

/-- The code a `KIND` field holds. -/
def KindField.code : KindField → BitVec 4
  | .named k => k.code
  | .reserved c => c

/-- R85: a field the operation does not use must be 0. -/
def requireZero (allZero : Bool) (i : Instr) : Except DecodeError Instr :=
  if allZero then .ok i else .error .unusedField

/-- The operation a request word encodes. The order of the checks is R72 (reserved bits), R86 (op code), R85
(unused fields). -/
def decode (w : Word) : Except DecodeError Instr :=
  if reservedField w ≠ 0 then .error .reservedBits
  else match (opField w).toNat with
    | 1 => requireZero (kindField w == 0 && regField w == 0 && nField w == 0) .pec15
    | 2 => requireZero (kindField w == 0 && regField w == 0 && nField w == 0) .cmd
    | 3 => requireZero (kindField w == 0 && regField w == 0) (.write (nField w))
    | 4 => requireZero (kindField w == 0 && regField w == 0) (.read (nField w))
    | 5 => requireZero (kindField w == 0 && regField w == 0) (.wakeIdle (nField w))
    | 6 => requireZero (kindField w == 0 && regField w == 0) (.wakeSleep (nField w))
    | 7 => requireZero (kindField w == 0 && nField w == 0) (.initLimits (regField w))
    | 8 => .ok (.wrgrp (decodeKind (kindField w)) (regField w) (nField w))
    | 9 => .ok (.rdgrp (decodeKind (kindField w)) (regField w) (nField w))
    | _ => .error .reservedOp

/-- The request word as R88 assembles it, `{0x000, N[7:0], REG[3:0], KIND[3:0], OP[3:0]}`: each field at its place of
R71. -/
def packReq (n : BitVec 8) (reg kind op : BitVec 4) : Word :=
  (n.setWidth 32 <<< 12) ||| (reg.setWidth 32 <<< 8) ||| (kind.setWidth 32 <<< 4) ||| op.setWidth 32

/-- The op code of an instruction (R73). -/
def Instr.op : Instr → BitVec 4
  | .pec15 => 0x1
  | .cmd => 0x2
  | .write _ => 0x3
  | .read _ => 0x4
  | .wakeIdle _ => 0x5
  | .wakeSleep _ => 0x6
  | .initLimits _ => 0x7
  | .wrgrp _ _ _ => 0x8
  | .rdgrp _ _ _ => 0x9

/-- The word of an instruction (R71, R73). -/
def encode : Instr → Word
  | .pec15 => packReq 0 0 0 0x1
  | .cmd => packReq 0 0 0 0x2
  | .write n => packReq n 0 0 0x3
  | .read n => packReq n 0 0 0x4
  | .wakeIdle n => packReq n 0 0 0x5
  | .wakeSleep n => packReq n 0 0 0x6
  | .initLimits numStat => packReq 0 numStat 0 0x7
  | .wrgrp kind reg n => packReq n reg kind.code 0x8
  | .rdgrp kind reg n => packReq n reg kind.code 0x9

/-- What the decoder reads from a table word of `nbits` bits. A request is one 32-bit word (R87): bits above it do
not exist. -/
def decodeTableWord (nbits w : Nat) : Option Instr :=
  if w % 2 ^ nbits < 2 ^ 32 then
    match decode (BitVec.ofNat 32 (w % 2 ^ nbits)) with
    | .ok i => some i
    | .error _ => none
  else none

/-- R89: each pseudo-operation expands to one request. -/
def Pseudo.expand : Pseudo → Instr
  | .wrcfga n => .wrgrp (.named (.single .cfga)) 0 n
  | .wrcfgb n => .wrgrp (.named (.single .cfgb)) 0 n
  | .wrcomm n => .wrgrp (.named (.single .comm)) 0 n
  | .wrpwm n => .wrgrp (.named (.single .pwma)) 0 n
  | .wrpwmb n => .wrgrp (.named (.single .pwmb)) 0 n
  | .wrsctrl n => .wrgrp (.named (.single .sctrla)) 0 n
  | .wrsctrlb n => .wrgrp (.named (.single .sctrlb)) 0 n
  | .rdcfga n => .rdgrp (.named (.single .cfga)) 0 n
  | .rdcfgb n => .rdgrp (.named (.single .cfgb)) 0 n
  | .rdcomm n => .rdgrp (.named (.single .comm)) 0 n
  | .rdpwm n => .rdgrp (.named (.single .pwma)) 0 n
  | .rdpwmb n => .rdgrp (.named (.single .pwmb)) 0 n
  | .rdsctrl n => .rdgrp (.named (.single .sctrla)) 0 n
  | .rdsctrlb n => .rdgrp (.named (.single .sctrlb)) 0 n
  | .rdcv reg n => .rdgrp (.named (.multi .cv)) reg n
  | .rdaux reg n => .rdgrp (.named (.multi .aux)) reg n
  | .rdstat reg n => .rdgrp (.named (.multi .stat)) reg n

/-- The name of a kind in the assembler (R74, R88). -/
def Kind.asm : Kind → String
  | .single .cfga => "CFGA"
  | .single .cfgb => "CFGB"
  | .multi .cv => "CV"
  | .multi .aux => "AUX"
  | .multi .stat => "STAT"
  | .single .comm => "COMM"
  | .single .pwma => "PWMA"
  | .single .pwmb => "PWMB"
  | .single .sctrla => "SCTRLA"
  | .single .sctrlb => "SCTRLB"

/-- One line of assembler for an instruction, numbers in decimal (R88). A reserved kind has no name there, so no
line. -/
def Instr.asm : Instr → Option String
  | .pec15 => some "PEC15"
  | .cmd => some "CMD"
  | .write n => some ("WRITE " ++ toString n.toNat)
  | .read n => some ("READ " ++ toString n.toNat)
  | .wakeIdle n => some ("WAKE_IDLE " ++ toString n.toNat)
  | .wakeSleep n => some ("WAKE_SLEEP " ++ toString n.toNat)
  | .initLimits numStat => some ("INIT_LIMITS " ++ toString numStat.toNat)
  | .wrgrp (.named k) reg n => some ("WRGRP " ++ k.asm ++ ", " ++ toString reg.toNat ++ ", " ++ toString n.toNat)
  | .rdgrp (.named k) reg n => some ("RDGRP " ++ k.asm ++ ", " ++ toString reg.toNat ++ ", " ++ toString n.toNat)
  | .wrgrp (.reserved _) _ _ => none
  | .rdgrp (.reserved _) _ _ => none

end Sys2Proof
end

