-- ==== Sys2Proof/Config.lean ====
section
/-! DEFINITION. Config: what the spec fixes (00_scope.md R8), the open parameters and the free values. An `opaque`
constant has no body: no proof can see what it is, so a statement holds for every value of it. -/

namespace Sys2Proof

/-- The condition of one IC of the chain (R150). -/
inductive Cond where
  | sleep | idle | ready
  deriving DecidableEq, Repr, Inhabited

/-! ## Values the spec fixes -/

/-- `PEC_SEED` (R8). -/
def Config.pecSeed : Half := 0x0010

/-- `PEC_POLY` (R8, R102; PRESUMED by the spec itself from general knowledge, log 13). -/
def Config.pecPoly : Half := 0x4599

/-- `FILL_BYTE`, sent while read data is clocked in (R8, R131; PRESUMED by the spec itself, log 13). -/
def Config.fillByte : Byte := 0xFF

/-- `WAKE_DUMMY_BYTE`, clocked by each `WAKE_IDLE` pulse (R8, R151; PRESUMED by the spec itself, log 13). -/
def Config.wakeDummyByte : Byte := 0xFF

/-- `T_SLEEP_LOW` in time units (R8, R152). -/
def Config.tSleepLow : Nat := 300

/-- `T_SLEEP_WAIT` in time units (R8, R152). -/
def Config.tSleepWait : Nat := 10

/-- `TIME_UNIT` in microseconds (R8, R160; PRESUMED by the spec itself, log 13). -/
def Config.timeUnit : Nat := 1

/-- `BUF_SIZE` and `RXBUF_SIZE` (R8). -/
def Config.bufSize : Nat := 256

/-- The most mirror sets any instance has: `MAX_IC` is at most 32 (R8). -/
abbrev Config.icLimit : Nat := 32

/-- `PEC_TABLE`, entries 0x00 to 0x3F (R102). -/
def Config.pecRows0 : List Half :=
  [0x0000, 0xC599, 0xCEAB, 0x0B32, 0xD8CF, 0x1D56, 0x1664, 0xD3FD,
   0xF407, 0x319E, 0x3AAC, 0xFF35, 0x2CC8, 0xE951, 0xE263, 0x27FA,
   0xAD97, 0x680E, 0x633C, 0xA6A5, 0x7558, 0xB0C1, 0xBBF3, 0x7E6A,
   0x5990, 0x9C09, 0x973B, 0x52A2, 0x815F, 0x44C6, 0x4FF4, 0x8A6D,
   0x5B2E, 0x9EB7, 0x9585, 0x501C, 0x83E1, 0x4678, 0x4D4A, 0x88D3,
   0xAF29, 0x6AB0, 0x6182, 0xA41B, 0x77E6, 0xB27F, 0xB94D, 0x7CD4,
   0xF6B9, 0x3320, 0x3812, 0xFD8B, 0x2E76, 0xEBEF, 0xE0DD, 0x2544,
   0x02BE, 0xC727, 0xCC15, 0x098C, 0xDA71, 0x1FE8, 0x14DA, 0xD143]

/-- `PEC_TABLE`, entries 0x40 to 0x7F (R102). -/
def Config.pecRows1 : List Half :=
  [0xF3C5, 0x365C, 0x3D6E, 0xF8F7, 0x2B0A, 0xEE93, 0xE5A1, 0x2038,
   0x07C2, 0xC25B, 0xC969, 0x0CF0, 0xDF0D, 0x1A94, 0x11A6, 0xD43F,
   0x5E52, 0x9BCB, 0x90F9, 0x5560, 0x869D, 0x4304, 0x4836, 0x8DAF,
   0xAA55, 0x6FCC, 0x64FE, 0xA167, 0x729A, 0xB703, 0xBC31, 0x79A8,
   0xA8EB, 0x6D72, 0x6640, 0xA3D9, 0x7024, 0xB5BD, 0xBE8F, 0x7B16,
   0x5CEC, 0x9975, 0x9247, 0x57DE, 0x8423, 0x41BA, 0x4A88, 0x8F11,
   0x057C, 0xC0E5, 0xCBD7, 0x0E4E, 0xDDB3, 0x182A, 0x1318, 0xD681,
   0xF17B, 0x34E2, 0x3FD0, 0xFA49, 0x29B4, 0xEC2D, 0xE71F, 0x2286]

/-- `PEC_TABLE`, entries 0x80 to 0xBF (R102). -/
def Config.pecRows2 : List Half :=
  [0xA213, 0x678A, 0x6CB8, 0xA921, 0x7ADC, 0xBF45, 0xB477, 0x71EE,
   0x5614, 0x938D, 0x98BF, 0x5D26, 0x8EDB, 0x4B42, 0x4070, 0x85E9,
   0x0F84, 0xCA1D, 0xC12F, 0x04B6, 0xD74B, 0x12D2, 0x19E0, 0xDC79,
   0xFB83, 0x3E1A, 0x3528, 0xF0B1, 0x234C, 0xE6D5, 0xEDE7, 0x287E,
   0xF93D, 0x3CA4, 0x3796, 0xF20F, 0x21F2, 0xE46B, 0xEF59, 0x2AC0,
   0x0D3A, 0xC8A3, 0xC391, 0x0608, 0xD5F5, 0x106C, 0x1B5E, 0xDEC7,
   0x54AA, 0x9133, 0x9A01, 0x5F98, 0x8C65, 0x49FC, 0x42CE, 0x8757,
   0xA0AD, 0x6534, 0x6E06, 0xAB9F, 0x7862, 0xBDFB, 0xB6C9, 0x7350]

/-- `PEC_TABLE`, entries 0xC0 to 0xFF (R102). -/
def Config.pecRows3 : List Half :=
  [0x51D6, 0x944F, 0x9F7D, 0x5AE4, 0x8919, 0x4C80, 0x47B2, 0x822B,
   0xA5D1, 0x6048, 0x6B7A, 0xAEE3, 0x7D1E, 0xB887, 0xB3B5, 0x762C,
   0xFC41, 0x39D8, 0x32EA, 0xF773, 0x248E, 0xE117, 0xEA25, 0x2FBC,
   0x0846, 0xCDDF, 0xC6ED, 0x0374, 0xD089, 0x1510, 0x1E22, 0xDBBB,
   0x0AF8, 0xCF61, 0xC453, 0x01CA, 0xD237, 0x17AE, 0x1C9C, 0xD905,
   0xFEFF, 0x3B66, 0x3054, 0xF5CD, 0x2630, 0xE3A9, 0xE89B, 0x2D02,
   0xA76F, 0x62F6, 0x69C4, 0xAC5D, 0x7FA0, 0xBA39, 0xB10B, 0x7492,
   0x5368, 0x96F1, 0x9DC3, 0x585A, 0x8BA7, 0x4E3E, 0x450C, 0x8095]

/-- `PEC_TABLE`, the contents of `ROM` (R23, R102; PRESUMED by the spec itself, log 13). -/
def Config.pecTable : Vector Half 256 :=
  ⟨⟨Config.pecRows0 ++ Config.pecRows1 ++ Config.pecRows2 ++ Config.pecRows3⟩, by decide +kernel⟩

/-- One bit of the procedure of R102 that generates the table. -/
def Config.pecTableBit (r : Half) : Half :=
  if r.getLsbD 14 then (r <<< 1) ^^^ Config.pecPoly else r <<< 1

/-- The entry that the procedure of R102 gives for index `i`. -/
def Config.pecTableEntry (i : Byte) : Half :=
  (List.range 8).foldl (fun r _ => Config.pecTableBit r) (i.setWidth 16 <<< 7)

/-! ## Open parameters and free values -/

/-- `MAX_IC` less 1, OPEN in 1 to 32 (R8; log 3). -/
opaque Config.maxIcPred : Fin 32

/-- `CRC_COUNT_INIT`, OPEN (R8, R37; log 4). -/
opaque Config.crcCountInit : Half

/-- `CMD_CODE(kind, dir, g)` for every triple the machine's parameters do not list, OPEN (R8, R185; log 3). -/
opaque Config.freeCmdCode : Kind → Dir → Nat → Half

/-- `HOST_MAP`, the bus address of every register that the machine's parameters do not list, OPEN (R8, R63; log 16). -/
opaque Config.freeHostAddress : HostReg → Nat

/-- `T_READY_TIMEOUT` in time units, OPEN (R8, R156; log 16). -/
opaque Config.tReadyTimeout : Nat

/-- `T_SLEEP_TIMEOUT` in time units, OPEN (R8, R156; log 16). -/
opaque Config.tSleepTimeout : Nat

/-- The byte the environment answers an exchange with, when the state has none set: one free value for each count of
bytes drawn so far (R120, R157; log 5). -/
opaque Config.freeByte : Nat → Byte

/-- A condition the environment draws, when the state has none set (R155, R156, R159; log 6). -/
opaque Config.freeCond : Nat → Cond

/-- The conditions of the chain at reset. Its length is `N_CHAIN`, OPEN (R8, R251; log 8). -/
opaque Config.resetChain : List Cond

end Sys2Proof
end

