-- ==== Sys2Proof/Machine/State.lean ====
section
/-! DEFINITION. Machine/State: every piece of state the spec gives the block and its environment (10_state.md R20
to R40), the ways a step can stop, and the state after reset (R42, R250). INVENTORY.md lists every field. -/

namespace Sys2Proof.Machine

/-- Why the machine stops with a fault: reading unwritten state is the one reason there is (R16, R235). -/
inductive Fault where
  /-- Raised by every operation and host read that reads state not written since reset, for which the spec itself names
  this fault (R14, R44, R235; 92 D29). DESIGN CHOICE: also by a host read of a mirror set at index `MAX_IC` or above,
  which nothing ever writes (log 12). Safe: the spec gives such a read no value. -/
  | unwritten
  deriving DecidableEq, Repr

/-- Why a request or an access has no effect (R16, R221). Every one of them is safe: nothing changes and no bus event
is emitted. -/
inductive Refusal where
  /-- Raised by no meaning: an instruction without one would answer it in its arm of `exec`. Safe. -/
  | notModelled (mnemonic : String)
  /-- Raised by decoding: `REQ[31:20]` is not 0 (R72). Safe. -/
  | reservedBits
  /-- Raised by decoding: the op code is 0 or 0xA to 0xF (R86). Safe. -/
  | reservedOp
  /-- Raised by decoding: a field the operation does not use is not 0 (R85). Safe. -/
  | unusedField
  /-- Raised by `WRITE`, `READ`, `WAKE_IDLE`, `WAKE_SLEEP`, `WRGRP`, `RDGRP`: `N` is 0 or above `MAX_IC` (R77). Safe. -/
  | chainSize
  /-- Raised by `WRGRP`: the kind has no transmit mirror or is reserved (R75, R184). Safe. -/
  | kindNotWritable
  /-- Raised by `RDGRP`: the kind code is reserved (R75, R186). Safe. -/
  | reservedKind
  /-- Raised by `WRGRP`, `RDGRP`: `REG` is outside the range of the kind (R76). Safe. -/
  | groupRange
  /-- Raised by `WRGRP`, `RDGRP`: the `isospi_reverse` flags of the addressed ICs differ (R181). Safe. -/
  | reverseMismatch
  /-- Raised by `INIT_LIMITS`: `LIM_VALID` is already 1 (R182). Safe. -/
  | limitsSet
  /-- Raised by `INIT_LIMITS`: a limit is out of range (R182). Safe. -/
  | limitsRange
  /-- Raised by a host write to a register the host may only read (R43). DESIGN CHOICE: also by a host write to a mirror
  set at index `MAX_IC` or above, of which the host may write no field (log 12). Safe. -/
  | hostWriteRO
  /-- Raised by every host access while `SEQ = BUSY`, which no run of the model reaches (R221, R254). Safe. -/
  | busy
  deriving DecidableEq, Repr

/-- A register, flag or group that the spec resets to *unwritten* (R42, R44). "Unwritten" is the spec's own reset
state, whose read is a fault; it stands for no missing reset value (log 1). -/
inductive Slot (α : Type) where
  | unwritten
  | written (v : α)
  deriving DecidableEq, Repr

/-- A byte store: the cells written since reset, their addresses strictly rising. An address it does not list is
unwritten (R28, R29, R44). -/
abbrev Memory := List Host.Cell

/-- An 8-byte received register group: 6 data bytes and 2 PEC bytes (R9). -/
abbrev Group := Vector Byte 8

/-- A stream of values the environment draws (R18): the values it is set to give next, and how many were drawn so
far. When none is set the value is a free value of Config (log 5, log 6). -/
structure Draws (α : Type) where
  plan : List α
  drawn : Nat
  deriving DecidableEq, Repr

/-- The events of the bus trace (R120). `delay t` means that at least `t` time units pass (R261). -/
inductive BusEvent where
  | csLow
  | csHigh
  | xfer (tx rx : Byte)
  | delay (t : Nat)
  deriving DecidableEq, Repr

/-- The bus: `CSB` (`true` is 1, deasserted: R39), the trace, and the environment's answers to exchanges. -/
structure Bus where
  csb : Bool
  trace : List BusEvent
  rx : Draws Byte
  deriving DecidableEq, Repr

/-- The daisy chain as the operations act on it: `COND[0 .. N_CHAIN-1]`, nearest the host first (R40), and the
conditions the environment draws. -/
structure Chain where
  cond : List Cond
  draws : Draws Cond
  deriving DecidableEq, Repr

/-- The variant limits `LIM` (R31). -/
structure Limits where
  cellCh : BitVec 8
  auxCh : BitVec 8
  statCh : BitVec 8
  numCv : BitVec 4
  numGpio : BitVec 4
  numStat : BitVec 4
  deriving DecidableEq, Repr

/-- The mirror of a single-group kind (R33). -/
structure SingleMirror where
  tx : Vector (Slot Byte) 6
  rx : Slot Group
  pecErr : Slot Bool
  deriving DecidableEq, Repr

/-- The mirror of the cell-voltage kind (R34). -/
structure CvMirror where
  raw : Vector (Slot Group) 6
  pecErr : Vector (Slot Bool) 6
  cCodes : Vector (Slot Half) 18
  deriving DecidableEq, Repr

/-- The mirror of the auxiliary kind (R35). No operation writes `aCodes`. -/
structure AuxMirror where
  raw : Vector (Slot Group) 4
  pecErr : Vector (Slot Bool) 4
  aCodes : Vector (Slot Half) 9
  deriving DecidableEq, Repr

/-- The mirror of the status kind (R36). No operation writes the last four fields. -/
structure StatMirror where
  raw : Vector (Slot Group) 2
  pecErr : Vector (Slot Bool) 2
  statCodes : Vector (Slot Half) 4
  flags : Vector (Slot Byte) 3
  muxFail : Slot Bool
  thsd : Slot Bool
  deriving DecidableEq, Repr

/-- The mirror set `M[L]` of one logical IC (R32 to R36). `single` is indexed by the seven single-group kinds in the
order of their constructors. -/
structure Mirror where
  isospiReverse : Slot Bool
  single : Vector SingleMirror 7
  cv : CvMirror
  aux : AuxMirror
  stat : StatMirror
  deriving DecidableEq, Repr

/-- `SEQ` (R22). -/
inductive Seq where
  | idle | busy
  deriving DecidableEq, Repr

/-- The open parameters of the machine (R8), which no step changes. `cmdCodes` lists the command words known for
this machine; any other is the free value `Config.freeCmdCode` (log 3). `hostMap` lists the bus addresses known for its
registers in the same way; no access goes by address (R63), and no step reads the two inactivity times, for the model has
no clock and admits a timeout at every point (R156; log 16). -/
structure Params where
  maxIcPred : Fin 32
  tIdleGap : Nat
  cmdCodes : List ((Kind × Dir × Nat) × Half)
  hostMap : List (HostReg × Nat)
  tReadyTimeout : Nat
  tSleepTimeout : Nat
  deriving DecidableEq, Repr

/-- The host's writes to operand registers and mirrors, the `SET` lines of R88 but for `SET REQ`. -/
inductive HostWrite where
  | argCmd (v : Half)
  | argLen (v : Byte)
  | argLim (v : Word)
  | buf (i : BitVec 8) (b : Byte)
  | isospiReverse (ic : Fin 32) (rev : Bool)
  | tx (ic : Fin 32) (k : SingleKind) (j : Fin 6) (b : Byte)
  | crcCount (k : Kind) (v : Half)
  deriving DecidableEq, Repr

/-- A host access that starts no operation (R43). `writeRo` is a write of any value to a register the host may not
write. -/
inductive PortAccess where
  | write (w : HostWrite)
  | writeRo (r : RoReg)
  | readRw (r : RwReg)
  | readRo (r : RoReg)
  deriving DecidableEq, Repr

/-- One host access. `request w` writes `w` to `REQ` and so starts an operation (R24). -/
inductive HostAccess where
  | request (w : Word)
  | port (a : PortAccess)
  deriving DecidableEq, Repr

/-- The block and its environment (R20). The last two fields are the model's own: the accesses the host will make, in
program order (log 2), and the value its last read returned (log 9). -/
@[ext]
structure State where
  rom : Vector Half 256
  req : Slot Word
  argCmd : Slot Half
  argLen : Slot Byte
  argLim : Slot Word
  buf : Memory
  rxbuf : Memory
  res : Slot Half
  lim : Limits
  limValid : Bool
  mirrors : Vector Mirror Config.icLimit
  crcCount : Vector Half 10
  seq : Seq
  bus : Bus
  chain : Chain
  params : Params
  host : List HostAccess
  lastRead : Option Word
  deriving DecidableEq, Repr

/-- A single-group mirror at reset (R33). -/
def SingleMirror.reset : SingleMirror where
  tx := Vector.replicate 6 .unwritten
  rx := .unwritten
  pecErr := .unwritten

/-- A mirror set at reset: every field unwritten (R42). -/
def Mirror.reset : Mirror where
  isospiReverse := .unwritten
  single := Vector.replicate 7 SingleMirror.reset
  cv := { raw := Vector.replicate 6 .unwritten
          pecErr := Vector.replicate 6 .unwritten
          cCodes := Vector.replicate 18 .unwritten }
  aux := { raw := Vector.replicate 4 .unwritten
           pecErr := Vector.replicate 4 .unwritten
           aCodes := Vector.replicate 9 .unwritten }
  stat := { raw := Vector.replicate 2 .unwritten
            pecErr := Vector.replicate 2 .unwritten
            statCodes := Vector.replicate 4 .unwritten
            flags := Vector.replicate 3 .unwritten
            muxFail := .unwritten
            thsd := .unwritten }

/-- The machine right after reset (R42, R250 to R252). What `lim` holds is a DESIGN CHOICE no read can see while
`limValid` is false (log 11). -/
def State.reset : State where
  rom := Config.pecTable
  req := .unwritten
  argCmd := .unwritten
  argLen := .unwritten
  argLim := .unwritten
  buf := []
  rxbuf := []
  res := .unwritten
  lim := { cellCh := 0, auxCh := 0, statCh := 0, numCv := 0, numGpio := 0, numStat := 0 }
  limValid := false
  mirrors := Vector.replicate Config.icLimit Mirror.reset
  crcCount := Vector.replicate 10 Config.crcCountInit
  seq := .idle
  bus := { csb := true, trace := [], rx := { plan := [], drawn := 0 } }
  chain := { cond := Config.resetChain, draws := { plan := [], drawn := 0 } }
  params := { maxIcPred := Config.maxIcPred, tIdleGap := 0, cmdCodes := [], hostMap := []
              tReadyTimeout := Config.tReadyTimeout, tSleepTimeout := Config.tSleepTimeout }
  host := []
  lastRead := none

end Sys2Proof.Machine
end

