-- ==== Sys2Proof/Machine/Ops.lean ====
section
/-! DEFINITION. Machine/Ops: the named operations over registers, byte stores, mirrors, the bus and the chain. The
block takes no exception and returns from none (60_exceptions.md R220, R224, R225), so there is no such operation. -/

namespace Sys2Proof.Machine

/-! ## Results

A read, a check or a whole operation ends in a value, a fault or a refusal. -/

/-- Goes on with the value of `x`, or stops as `x` stops. -/
def andThen {α β : Type} (x : Host.Outcome α Fault Refusal) (f : α → Host.Outcome β Fault Refusal) :
    Host.Outcome β Fault Refusal :=
  match x with
  | .next a => f a
  | .fault r => .fault r
  | .refused r => .refused r

/-- The values of a list of reads, taken from left to right: the first that stops, stops all. -/
def readAll {α : Type} : List (Host.Outcome α Fault Refusal) → Host.Outcome (List α) Fault Refusal
  | [] => .next []
  | x :: xs => andThen x fun a => andThen (readAll xs) fun as => .next (a :: as)

/-- R16: goes on if `ok`, else refuses for the reason given. -/
def require (ok : Bool) (r : Refusal) : Host.Outcome Unit Fault Refusal :=
  if ok then .next () else .refused r

/-- Reads a register, flag or group: unwritten state faults (R44). -/
def Slot.read {α : Type} : Slot α → Host.Outcome α Fault Refusal
  | .unwritten => .fault .unwritten
  | .written v => .next v

/-- The refusal that stands for a word that decodes to no operation (R221). -/
def refusalOf : DecodeError → Refusal
  | .reservedBits => .reservedBits
  | .reservedOp => .reservedOp
  | .unusedField => .unusedField

/-! ## Byte stores: BUF and RXBUF (R28, R29, R50) -/

/-- The byte at an address, or none while it is unwritten. -/
def Memory.read : Memory → Nat → Option Byte
  | [], _ => none
  | c :: m, a => if c.1 = a then some c.2 else Memory.read m a

/-- Writes one byte at its place in the rising order of addresses. -/
def Memory.write : Memory → Nat → Byte → Memory
  | [], a, b => [(a, b)]
  | c :: m, a, b =>
    if a < c.1 then (a, b) :: c :: m
    else if a = c.1 then (a, b) :: m
    else c :: Memory.write m a b

/-- `MemWrite` of consecutive bytes from address `a` up. -/
def Memory.writeBytes : Memory → Nat → List Byte → Memory
  | m, _, [] => m
  | m, a, b :: bs => Memory.writeBytes (Memory.write m a b) (a + 1) bs

/-- `MemRead` of one byte: an unwritten byte faults (R44). -/
def Memory.readByte (m : Memory) (a : Nat) : Host.Outcome Byte Fault Refusal :=
  match Memory.read m a with
  | some b => .next b
  | none => .fault .unwritten

/-- `MemRead` of `k` bytes from address `a` up. -/
def Memory.readBytes (m : Memory) (a k : Nat) : Host.Outcome (List Byte) Fault Refusal :=
  readAll ((List.range k).map fun i => Memory.readByte m (a + i))

/-- The canonical form from an address up: strictly rising addresses, all of them addresses of the store. Nothing is
listed that equals an unlisted address, for an unlisted address holds no value. -/
def Memory.wfFrom : Nat → Memory → Bool
  | _, [] => true
  | lo, c :: m => decide (lo ≤ c.1) && decide (c.1 < Config.bufSize) && Memory.wfFrom (c.1 + 1) m

/-- The canonical form of a byte store. -/
def Memory.wf (m : Memory) : Bool := Memory.wfFrom 0 m

/-! ## Updates of one part of the state -/

def State.setReq (s : State) (w : Word) : State := { s with req := .written w }
def State.setArgCmd (s : State) (v : Half) : State := { s with argCmd := .written v }
def State.setArgLen (s : State) (v : Byte) : State := { s with argLen := .written v }
def State.setArgLim (s : State) (v : Word) : State := { s with argLim := .written v }
def State.setBuf (s : State) (m : Memory) : State := { s with buf := m }
def State.setRxbuf (s : State) (m : Memory) : State := { s with rxbuf := m }
def State.setRes (s : State) (v : Half) : State := { s with res := .written v }
/-- Loads `LIM` and sets `LIM_VALID` (R182). -/
def State.setLimits (s : State) (l : Limits) : State := { s with lim := l, limValid := true }
def State.setMirrors (s : State) (m : Vector Mirror Config.icLimit) : State := { s with mirrors := m }
def State.setCrcCount (s : State) (c : Vector Half 10) : State := { s with crcCount := c }
def State.setBus (s : State) (b : Bus) : State := { s with bus := b }
def State.setChain (s : State) (c : Chain) : State := { s with chain := c }
def State.setHost (s : State) (h : List HostAccess) : State := { s with host := h }
def State.setLastRead (s : State) (v : Word) : State := { s with lastRead := some v }

/-! ## Parameters and limits -/

/-- `MAX_IC`, between 1 and 32 (R8). -/
def Params.maxIc (p : Params) : Nat := p.maxIcPred.val + 1

/-- The first value a list of pairs holds for a key. -/
def lookupKey {α β : Type} [DecidableEq α] : List (α × β) → α → Option β
  | [], _ => none
  | e :: es, key => if e.1 = key then some e.2 else lookupKey es key

/-- `CMD_CODE(k, dir, g)` (R185): as the parameters list it, else a free value. -/
def Params.cmdCode (p : Params) (k : Kind) (dir : Dir) (g : Nat) : Half :=
  (lookupKey p.cmdCodes (k, dir, g)).getD (Config.freeCmdCode k dir g)

/-- `HOST_MAP` (R63): as the parameters list it, else a free value. -/
def Params.hostAddress (p : Params) (r : HostReg) : Nat := (lookupKey p.hostMap r).getD (Config.freeHostAddress r)

/-- Reads `LIM`: it is unspecified, and so faults, while `LIM_VALID = 0` (R31, R44). -/
def State.readLimits (s : State) : Host.Outcome Limits Fault Refusal :=
  if s.limValid then .next s.lim else .fault .unwritten

/-- One field of `LIM`, as the host sees it (R31). -/
def Limits.field (l : Limits) : LimField → Word
  | .cellCh => l.cellCh.setWidth 32
  | .auxCh => l.auxCh.setWidth 32
  | .statCh => l.statCh.setWidth 32
  | .numCv => l.numCv.setWidth 32
  | .numGpio => l.numGpio.setWidth 32
  | .numStat => l.numStat.setWidth 32

/-! ## Mirrors -/

/-- The place of a single-group kind in `Mirror.single`. -/
def singleIndex : SingleKind → Fin 7
  | .cfga => 0
  | .cfgb => 1
  | .comm => 2
  | .pwma => 3
  | .pwmb => 4
  | .sctrla => 5
  | .sctrlb => 6

/-- The place of a kind among the ten counters of `CRC_COUNT` (R37). -/
def kindIndex : Kind → Fin 10
  | .single .cfga => 0
  | .single .cfgb => 1
  | .multi .cv => 2
  | .multi .aux => 3
  | .multi .stat => 4
  | .single .comm => 5
  | .single .pwma => 6
  | .single .pwmb => 7
  | .single .sctrla => 8
  | .single .sctrlb => 9

/-- The mirror set `M[L]`. No mirror set has an index of 32 or more: such a one reads as unwritten. -/
def State.mirror (s : State) (ic : Nat) : Mirror := (s.mirrors[ic]?).getD Mirror.reset

/-- The mirror of a single-group kind. -/
def Mirror.get (m : Mirror) (k : SingleKind) : SingleMirror := m.single[singleIndex k]

/-- Replaces the mirror of a single-group kind. -/
def Mirror.set (m : Mirror) (k : SingleKind) (v : SingleMirror) : Mirror :=
  { m with single := m.single.set (singleIndex k) v }

/-- `CRC_COUNT[k]` (R37). -/
def State.crc (s : State) (k : Kind) : Half := s.crcCount[kindIndex k]

/-! ## The bus (R15, R120) -/

/-- Takes the next draw of a stream: the next value set, else the free value for the count so far. -/
def Draws.take {α : Type} (free : Nat → α) (d : Draws α) : α × Draws α :=
  (d.plan.head?.getD (free d.drawn), { plan := d.plan.tail, drawn := d.drawn + 1 })

/-- Takes `k` draws. -/
def Draws.takeMany {α : Type} (free : Nat → α) : Nat → Draws α → List α × Draws α
  | 0, d => ([], d)
  | k + 1, d =>
    let first := Draws.take free d
    let rest := Draws.takeMany free k first.2
    (first.1 :: rest.1, rest.2)

/-- `CsLow()`. -/
def Bus.csLow (b : Bus) : Bus := { b with csb := false, trace := b.trace ++ [.csLow] }

/-- `CsHigh()`. -/
def Bus.csHigh (b : Bus) : Bus := { b with csb := true, trace := b.trace ++ [.csHigh] }

/-- `Delay(t)`. -/
def Bus.delay (t : Nat) (b : Bus) : Bus := { b with trace := b.trace ++ [.delay t] }

/-- `rx <- Xfer(tx)`: the byte received is a draw of the environment (R120). -/
def Bus.xfer (tx : Byte) (b : Bus) : Byte × Bus :=
  let r := Draws.take Config.freeByte b.rx
  (r.1, { b with trace := b.trace ++ [.xfer tx r.1], rx := r.2 })

/-- `Xfer` of each byte of a list in turn, with the bytes received. -/
def Bus.xferAll : List Byte → Bus → List Byte × Bus
  | [], b => ([], b)
  | tx :: txs, b =>
    let first := Bus.xfer tx b
    let rest := Bus.xferAll txs first.2
    (first.1 :: rest.1, rest.2)

/-! ## The chain's timeouts (R156) -/

/-- The lower of two conditions, in the order SLEEP, IDLE, READY. -/
def condLower : Cond → Cond → Cond
  | .sleep, _ => .sleep
  | _, .sleep => .sleep
  | .idle, _ => .idle
  | _, .idle => .idle
  | .ready, .ready => .ready

/-- The environment's timeout steps at one point: each IC keeps its condition or falls to a lower one, as drawn.
Nothing raises a condition (R156). -/
def Chain.timeouts (c : Chain) : Chain :=
  let drawn := Draws.takeMany Config.freeCond c.cond.length c.draws
  { cond := List.zipWith condLower c.cond drawn.1, draws := drawn.2 }

/-- The timeout steps, on the whole state. -/
def State.timeouts (s : State) : State := s.setChain s.chain.timeouts

/-! ## What comes next -/

/-- What the machine does next: the host's accesses come one at a time, in program order (R65), and the chain may
time out before each (R156). -/
inductive NextAction where
  /-- `SEQ = BUSY`: the access is refused (R254). -/
  | busy
  /-- The host makes no access: the block waits (R252). -/
  | wait (t : State)
  /-- The host writes a request word. -/
  | request (w : Word) (t : State)
  /-- The host makes another access. -/
  | access (a : PortAccess) (t : State)

/-- The host's next access, taken off its list, and the state in which it finds the block. -/
def nextAction (s : State) : NextAction :=
  match s.host with
  | [] => .wait s.timeouts
  | a :: rest =>
    match s.seq with
    | .busy => .busy
    | .idle =>
      match a with
      | .request w => .request w ((s.setHost rest).timeouts)
      | .port p => .access p ((s.setHost rest).timeouts)

end Sys2Proof.Machine
end

