-- ==== Sys2Proof/Machine/Crc.lean ====
section
/-! DEFINITION. Machine/Crc: the PEC15 function in its table form and its bit-serial form (40_pec15.md R101, R103). -/

namespace Sys2Proof.Machine

/-- The index into `ROM` for the next byte: `((rem >> 7) ^ byte) & 0xFF` (R101). -/
def pecAddr (rem : Half) (b : Byte) : Byte := ((rem >>> 7) ^^^ b.setWidth 16).setWidth 8

/-- One byte of the table form (R101, R51). -/
def pecStep (rom : Vector Half 256) (rem : Half) (b : Byte) : Half :=
  (rem <<< 8) ^^^ rom[(pecAddr rem b).toFin]

/-- `pec15(data)` (R101): it reads `ROM` and nothing else. -/
def pec15 (rom : Vector Half 256) (data : List Byte) : Half :=
  (data.foldl (pecStep rom) Config.pecSeed) <<< 1

/-- One data bit of the bit-serial form (R103): a 15-bit register, most significant bit first. -/
def pecBit (r : BitVec 15) (bit : Bool) : BitVec 15 :=
  if r.getLsbD 14 ^^ bit then (r <<< 1) ^^^ Config.pecPoly.setWidth 15 else r <<< 1

/-- One byte of the bit-serial form, from bit 7 down to bit 0 (R103). -/
def pecByte (r : BitVec 15) (b : Byte) : BitVec 15 :=
  [7, 6, 5, 4, 3, 2, 1, 0].foldl (fun r i => pecBit r (b.getLsbD i)) r

/-- `pec15_bitwise(data)` (R103). -/
def pec15Bitwise (data : List Byte) : Half :=
  data.foldl pecByte (Config.pecSeed.setWidth 15) ++ 0#1

end Sys2Proof.Machine
end

