-- ==== Sys2Proof/Machine/Flags.lean ====
section
/-! DEFINITION. Machine/Flags: the status the block computes (10_state.md R41): whether a received group's PEC
mismatches, the status word of `RES`, and the tally `CRC_COUNT`. -/

namespace Sys2Proof.Machine

/-- Byte `i` of the bytes a transaction received. Every index used lies inside the list. -/
def byteAt (rx : List Byte) (i : Nat) : Byte := rx.getD i 0

/-- Received group `p`: the bytes `rx[8p .. 8p+8)` (R58, R129). -/
def groupAt (rx : List Byte) (p : Nat) : Group :=
  #v[byteAt rx (8 * p), byteAt rx (8 * p + 1), byteAt rx (8 * p + 2), byteAt rx (8 * p + 3),
     byteAt rx (8 * p + 4), byteAt rx (8 * p + 5), byteAt rx (8 * p + 6), byteAt rx (8 * p + 7)]

/-- The 6 data bytes of a received group. -/
def groupData (r : Group) : List Byte := [r[0], r[1], r[2], r[3], r[4], r[5]]

/-- The received PEC `{r6, r7}`, high byte first (R54). -/
def groupPec (r : Group) : Half := r[6] ++ r[7]

/-- `group_bad(r)` (R127): the PEC of the 6 data bytes differs from the 2 bytes received after them. -/
def groupBad (rom : Vector Half 256) (r : Group) : Bool := pec15 rom (groupData r) != groupPec r

/-- The mismatch vector `bad[0 .. N-1]` of a read transaction (R129). -/
def badFlags (rom : Vector Half 256) (n : Nat) (rx : List Byte) : List Bool :=
  (List.range n).map fun p => groupBad rom (groupAt rx p)

/-- The status of `READ` and `RDGRP` (R30): `0xFFFF` if a group mismatched, else 0. -/
def statusWord (anyBad : Bool) : Half := if anyBad then 0xFFFF else 0x0000

/-- `CRC_COUNT[k]` goes up by 1, modulo 2^16, for each bad group (R190). -/
def tallyCrc (counts : Vector Half 10) (k : Kind) (bad : List Bool) : Vector Half 10 :=
  counts.set (kindIndex k) (bad.foldl (fun v b => if b then v + 1 else v) counts[kindIndex k])

end Sys2Proof.Machine
end

