-- ==== Sys2Proof/Machine/Operands.lean ====
section
/-! DEFINITION. Machine/Operands: every operand form of the operations, with its checks: the chain size, the operand
registers, the groups of `BUF`, the register kind and group selector, the reverse flag and the index mapping. -/

namespace Sys2Proof.Machine

/-- `N`, which must lie in `1 .. MAX_IC` (R77). -/
def chainSize (n : BitVec 8) (s : State) : Host.Outcome Nat Fault Refusal :=
  if 1 ≤ n.toNat ∧ n.toNat ≤ s.params.maxIc then .next n.toNat else .refused .chainSize

/-- The data of `PEC15`: `BUF[0 .. ARG_LEN)` (R78, R100). -/
def pecOperand (s : State) : Host.Outcome (List Byte) Fault Refusal :=
  andThen (Slot.read s.argLen) fun len => Memory.readBytes s.buf 0 len.toNat

/-- The `N` groups of `BUF` in shift order: group `p` is `BUF[6p .. 6p+6)` (R28, R125). -/
def bufGroups (n : Nat) (s : State) : Host.Outcome (List (List Byte)) Fault Refusal :=
  readAll ((List.range n).map fun p => Memory.readBytes s.buf (6 * p) 6)

/-- The kinds `WRGRP` accepts (R75). -/
def writableKind : KindField → Host.Outcome SingleKind Fault Refusal
  | .named (.single k) => .next k
  | .named (.multi _) => .refused .kindNotWritable
  | .reserved _ => .refused .kindNotWritable

/-- The kinds `RDGRP` accepts (R75). -/
def readableKind : KindField → Host.Outcome Kind Fault Refusal
  | .named k => .next k
  | .reserved _ => .refused .reservedKind

/-- `G(k)` for the kinds with several groups (R191). -/
def groupLimit (k : MultiKind) (l : Limits) : Nat :=
  match k with
  | .cv => l.numCv.toNat
  | .aux => l.numGpio.toNat
  | .stat => l.numStat.toNat

/-- The groups `REG` selects, in the order they are read (R76, R186). Reading `G(k)` reads `LIM` for the kinds with
several groups only. -/
def selectGroups (k : Kind) (reg : BitVec 4) (s : State) : Host.Outcome (List Nat) Fault Refusal :=
  match k with
  | .single _ => andThen (require (decide (reg.toNat ≤ 1)) .groupRange) fun _ => .next [1]
  | .multi m =>
    andThen s.readLimits fun l =>
    andThen (require (decide (reg.toNat ≤ groupLimit m l)) .groupRange) fun _ =>
    .next (if reg.toNat = 0 then List.range' 1 (groupLimit m l) else [reg.toNat])

/-- `map(p, N, rev)` (R180): the logical index of a shift-order index. -/
def mapIndex (p n : Nat) (rev : Bool) : Nat := if rev then n - 1 - p else p

/-- `M[L].isospi_reverse` (R32). -/
def reverseFlag (s : State) (ic : Nat) : Host.Outcome Bool Fault Refusal :=
  Slot.read (s.mirror ic).isospiReverse

/-- The loop of `REV(N)` (R181): every listed IC's flag must equal `rev`. -/
def checkReverse (s : State) (rev : Bool) : List Nat → Host.Outcome Unit Fault Refusal
  | [] => .next ()
  | ic :: ics =>
    andThen (reverseFlag s ic) fun r =>
    andThen (require (r == rev) .reverseMismatch) fun _ => checkReverse s rev ics

/-- `REV(N)` (R181): the flag of `M[0]`, from which no addressed IC's may differ. -/
def chainReverse (n : Nat) (s : State) : Host.Outcome Bool Fault Refusal :=
  andThen (reverseFlag s 0) fun rev =>
  andThen (checkReverse s rev (List.range' 1 (n - 1))) fun _ => .next rev

/-- The 6 bytes `M[L].k.tx[0..5]` (R33). -/
def txGroup (s : State) (k : SingleKind) (ic : Nat) : Host.Outcome (List Byte) Fault Refusal :=
  readAll (((s.mirror ic).get k).tx.toList.map Slot.read)

/-- The groups `WRGRP` marshals, in shift order: `G[p]` is the transmit mirror of IC `map(p, N, rev)` (R184). -/
def txGroups (n : Nat) (rev : Bool) (k : SingleKind) (s : State) : Host.Outcome (List (List Byte)) Fault Refusal :=
  readAll ((List.range n).map fun p => txGroup s k (mapIndex p n rev))

end Sys2Proof.Machine
end

