-- ==== Sys2Proof/Machine/Framing.lean ====
section
/-! DEFINITION. Machine/Framing: the command framer and the multi-IC transactions, `CMD`, `WRITE` and `READ`
(41_framing.md). -/

namespace Sys2Proof.Machine

/-- `cmd_frame(c0, c1)` for the command word `{c0, c1}` (R55, R79, R122). -/
def cmdFrame (rom : Vector Half 256) (c : Half) : List Byte :=
  let q := pec15 rom [hiByte c, loByte c]
  [hiByte c, loByte c, hiByte q, loByte q]

/-- `group_frame(d)` (R80, R124). -/
def groupFrame (rom : Vector Half 256) (d : List Byte) : List Byte :=
  let q := pec15 rom d
  d ++ [hiByte q, loByte q]

/-- The bytes of a write frame: the command frame, then the groups from the last shift-order index down to 0 (R57,
R81, R128). `groups` is in shift order. -/
def writeFrame (rom : Vector Half 256) (c : Half) (groups : List (List Byte)) : List Byte :=
  cmdFrame rom c ++ groups.reverse.flatMap (groupFrame rom)

/-- One transaction that only sends: every byte received is discarded (R121, R128, R130). -/
def sendTxn (bytes : List Byte) (b : Bus) : Bus :=
  (Bus.xferAll bytes b.csLow).2.csHigh

/-- `write_txn(N, c0, c1, G)` (R128). -/
def writeTxn (rom : Vector Half 256) (c : Half) (groups : List (List Byte)) (b : Bus) : Bus :=
  sendTxn (writeFrame rom c groups) b

/-- `read_txn(N, c0, c1)` (R129): the `8N` bytes clocked in after the command frame, and the bus after it. The full
count is always exchanged (R132). -/
def readTxn (rom : Vector Half 256) (n : Nat) (c : Half) (b : Bus) : List Byte × Bus :=
  let b1 := (Bus.xferAll (cmdFrame rom c) b.csLow).2
  let r := Bus.xferAll (List.replicate (8 * n) Config.fillByte) b1
  (r.1, r.2.csHigh)

/-- `CMD` (R123): a bare command. Nothing of the block changes but the bus; the chain may time out meanwhile (R156). -/
def execCmd (s : State) : Host.Outcome State Fault Refusal :=
  andThen (Slot.read s.argCmd) fun c =>
  .next ((s.setBus (sendTxn (cmdFrame s.rom c) s.bus)).timeouts)

/-- `WRITE` (R125): the command and the `N` groups of `BUF`. -/
def execWrite (n : BitVec 8) (s : State) : Host.Outcome State Fault Refusal :=
  andThen (chainSize n s) fun count =>
  andThen (Slot.read s.argCmd) fun c =>
  andThen (bufGroups count s) fun groups =>
  .next ((s.setBus (writeTxn s.rom c groups s.bus)).timeouts)

/-- `READ` (R126): the command, the `8N` bytes received into `RXBUF`, and the status into `RES`. -/
def execRead (n : BitVec 8) (s : State) : Host.Outcome State Fault Refusal :=
  andThen (chainSize n s) fun count =>
  andThen (Slot.read s.argCmd) fun c =>
  let r := readTxn s.rom count c s.bus
  .next ((((s.setBus r.2).setRxbuf (Memory.writeBytes s.rxbuf 0 r.1)).setRes
    (statusWord ((badFlags s.rom count r.1).any id))).timeouts)

end Sys2Proof.Machine
end

