-- ==== Sys2Proof/Machine/Pec.lean ====
section
/-! DEFINITION. Machine/Pec: the PEC15 operation (40_pec15.md R100). -/

namespace Sys2Proof.Machine

/-- `PEC15` (R100): `RES <- pec15(BUF[0 .. ARG_LEN))`, with no bus event. -/
def execPec15 (s : State) : Host.Outcome State Fault Refusal :=
  andThen (pecOperand s) fun data => .next (s.setRes (pec15 s.rom data))

end Sys2Proof.Machine
end

