-- ==== Sys2Proof/Machine/Register.lean ====
section
/-! DEFINITION. Machine/Register: the multi-IC register transactor, `INIT_LIMITS`, `WRGRP` and `RDGRP`
(43_register_access.md). -/

namespace Sys2Proof.Machine

/-- The limits that `ARG_LIM` and the `REG` field give (R27, R182). -/
def limitsOf (v : Word) (numStat : BitVec 4) : Limits where
  cellCh := v.extractLsb' 0 8
  auxCh := v.extractLsb' 8 8
  statCh := v.extractLsb' 16 8
  numCv := v.extractLsb' 24 4
  numGpio := v.extractLsb' 28 4
  numStat := numStat

/-- The ranges `INIT_LIMITS` requires (R31, R182). -/
def limitsOk (l : Limits) : Bool :=
  decide (l.cellCh.toNat ≤ 18 ∧ l.auxCh.toNat ≤ 9 ∧ l.statCh.toNat ≤ 4) &&
  decide (1 ≤ l.numCv.toNat ∧ l.numCv.toNat ≤ 6) &&
  decide (1 ≤ l.numGpio.toNat ∧ l.numGpio.toNat ≤ 4) &&
  decide (1 ≤ l.numStat.toNat ∧ l.numStat.toNat ≤ 2) &&
  decide (l.cellCh.toNat ≤ 3 * l.numCv.toNat)

/-- `INIT_LIMITS` (R182): loads `LIM` once. -/
def execInitLimits (numStat : BitVec 4) (s : State) : Host.Outcome State Fault Refusal :=
  andThen (require (!s.limValid) .limitsSet) fun _ =>
  andThen (Slot.read s.argLim) fun v =>
  andThen (require (limitsOk (limitsOf v numStat)) .limitsRange) fun _ =>
  .next (s.setLimits (limitsOf v numStat))

/-- `WRGRP` (R184): the transmit mirrors go out in one write transaction, and stay marshalled in `BUF`. -/
def execWrgrp (kind : KindField) (reg : BitVec 4) (n : BitVec 8) (s : State) : Host.Outcome State Fault Refusal :=
  andThen (chainSize n s) fun count =>
  andThen (writableKind kind) fun k =>
  andThen (require (decide (reg.toNat ≤ 1)) .groupRange) fun _ =>
  andThen (chainReverse count s) fun rev =>
  andThen (txGroups count rev k s) fun groups =>
  .next (((s.setBuf (Memory.writeBytes s.buf 0 groups.flatten)).setBus
    (writeTxn s.rom (s.params.cmdCode (.single k) .wr 1) groups s.bus)).timeouts)

/-- Cell-voltage code `i` of a received group, little-endian (R53). -/
def cellCode (r : Group) (i : Fin 3) : Half :=
  match i with
  | 0 => r[1] ++ r[0]
  | 1 => r[3] ++ r[2]
  | 2 => r[5] ++ r[4]

/-- `decode_cells(L, g, r)` (R189): the codes are stored whether or not the PEC matched. -/
def decodeCells (g : Nat) (r : Group) (codes : Vector (Slot Half) 18) : Vector (Slot Half) 18 :=
  ((codes.setIfInBounds (3 * (g - 1)) (.written (cellCode r 0))).setIfInBounds
    (3 * (g - 1) + 1) (.written (cellCode r 1))).setIfInBounds (3 * (g - 1) + 2) (.written (cellCode r 2))

/-- `store_group(L, k, g, r, bad)` on the mirror set of IC `L` (R188). DEDUCED: the family of the kind decides the form
of its mirror (log 20). -/
def storeGroup (k : Kind) (g : Nat) (r : Group) (bad : Bool) (m : Mirror) : Mirror :=
  match k with
  | .single sk => m.set sk { m.get sk with rx := .written r, pecErr := .written bad }
  | .multi .cv =>
    { m with cv := { raw := m.cv.raw.setIfInBounds (g - 1) (.written r)
                     pecErr := m.cv.pecErr.setIfInBounds (g - 1) (.written bad)
                     cCodes := decodeCells g r m.cv.cCodes } }
  | .multi .aux =>
    { m with aux := { m.aux with raw := m.aux.raw.setIfInBounds (g - 1) (.written r)
                                 pecErr := m.aux.pecErr.setIfInBounds (g - 1) (.written bad) } }
  | .multi .stat =>
    { m with stat := { m.stat with raw := m.stat.raw.setIfInBounds (g - 1) (.written r)
                                   pecErr := m.stat.pecErr.setIfInBounds (g - 1) (.written bad) } }

/-- Received group `p` of a transaction goes to IC `map(p, N, rev)` (R58, R186). -/
def storeOne (rom : Vector Half 256) (k : Kind) (g n : Nat) (rev : Bool) (rx : List Byte)
    (ms : Vector Mirror Config.icLimit) (p : Nat) : Vector Mirror Config.icLimit :=
  let ic := mapIndex p n rev
  let r := groupAt rx p
  ms.setIfInBounds ic (storeGroup k g r (groupBad rom r) ((ms[ic]?).getD Mirror.reset))

/-- Every received group of a transaction, in shift order (R186). -/
def storeGroups (rom : Vector Half 256) (k : Kind) (g n : Nat) (rev : Bool) (rx : List Byte)
    (ms : Vector Mirror Config.icLimit) : Vector Mirror Config.icLimit :=
  (List.range n).foldl (storeOne rom k g n rev rx) ms

/-- One pass of the loop of `RDGRP` (R186): a read transaction for group `g`, its bytes into `RXBUF`, its groups into
the mirrors, its mismatches into the tally. It tells whether any group was bad. -/
def readGroup (k : Kind) (n : Nat) (rev : Bool) (g : Nat) (s : State) : Bool × State :=
  let r := readTxn s.rom n (s.params.cmdCode k .rd g) s.bus
  let bad := badFlags s.rom n r.1
  (bad.any id,
   (((s.setBus r.2).setRxbuf (Memory.writeBytes s.rxbuf 0 r.1)).setMirrors
     (storeGroups s.rom k g n rev r.1 s.mirrors)).setCrcCount (tallyCrc s.crcCount k bad))

/-- The loop of `RDGRP` over the selected groups, each a transaction of its own (R186, R187). -/
def readGroups (k : Kind) (n : Nat) (rev : Bool) : List Nat → State → Bool × State
  | [], s => (false, s)
  | g :: gs, s =>
    let first := readGroup k n rev g s
    let rest := readGroups k n rev gs first.2
    (first.1 || rest.1, rest.2)

/-- `RDGRP` (R186): every check comes before the first bus event (R192). -/
def execRdgrp (kind : KindField) (reg : BitVec 4) (n : BitVec 8) (s : State) : Host.Outcome State Fault Refusal :=
  andThen (chainSize n s) fun count =>
  andThen (readableKind kind) fun k =>
  andThen (selectGroups k reg s) fun groups =>
  andThen (chainReverse count s) fun rev =>
  let r := readGroups k count rev groups s
  .next ((r.2.setRes (statusWord r.1)).timeouts)

end Sys2Proof.Machine
end

