-- ==== Sys2Proof/Machine/Wake.lean ====
section
/-! DEFINITION. Machine/Wake: the wake operations and what they do to the chain's conditions (42_wakeup.md). -/

namespace Sys2Proof.Machine

/-- One pulse of `WAKE_IDLE`: the byte received is discarded (R151). -/
def wakeIdlePulse (b : Bus) : Bus := (Bus.xfer Config.wakeDummyByte b.csLow).2.csHigh

/-- The pulses of `WAKE_IDLE`, with the gap between two of them where it is above 0 (R151). -/
def wakeIdlePulses (gap : Nat) : Nat → Bus → Bus
  | 0, b => b
  | k + 1, b =>
    let b1 := wakeIdlePulse b
    wakeIdlePulses gap k (if 0 < k ∧ 0 < gap then b1.delay gap else b1)

/-- One pulse and wait of `WAKE_SLEEP` (R152). -/
def wakeSleepPulse (b : Bus) : Bus :=
  ((b.csLow.delay Config.tSleepLow).csHigh).delay Config.tSleepWait

/-- The pulses of `WAKE_SLEEP` (R152). -/
def wakeSleepPulses : Nat → Bus → Bus
  | 0, b => b
  | k + 1, b => wakeSleepPulses k (wakeSleepPulse b)

/-- The condition of the IC at position `i` after `WAKE_IDLE n`, from its condition at the start and a draw: an
IDLE or READY IC is READY (R154), a SLEEP IC ends in the draw (R155), and so does an IC at or above `n` (R159). DEDUCED where
`n` is not `N_CHAIN` (log 17). -/
def wakeIdleCond (n i : Nat) (c drawn : Cond) : Cond :=
  if i < n then
    match c with
    | .sleep => drawn
    | .idle => .ready
    | .ready => .ready
  else drawn

/-- The condition of the IC at position `i` after `WAKE_SLEEP n`: READY (R153), or a draw at or above `n` (R159). -/
def wakeSleepCond (n i : Nat) (_c drawn : Cond) : Cond := if i < n then .ready else drawn

/-- The conditions of the ICs from position `i` up, each from its condition and its draw. -/
def wakeConds (f : Nat → Cond → Cond → Cond) : Nat → List Cond → List Cond → List Cond
  | i, c :: cs, d :: ds => f i c d :: wakeConds f (i + 1) cs ds
  | _, _, _ => []

/-- A wake's effect on the whole chain: one draw is taken for each IC. -/
def Chain.wake (f : Nat → Cond → Cond → Cond) (c : Chain) : Chain :=
  let drawn := Draws.takeMany Config.freeCond c.cond.length c.draws
  { cond := wakeConds f 0 c.cond drawn.1, draws := drawn.2 }

/-- `WAKE_IDLE` (R151). -/
def execWakeIdle (n : BitVec 8) (s : State) : Host.Outcome State Fault Refusal :=
  andThen (chainSize n s) fun count =>
  .next ((s.setBus (wakeIdlePulses s.params.tIdleGap count s.bus)).setChain (s.chain.wake (wakeIdleCond count)))

/-- `WAKE_SLEEP` (R152). -/
def execWakeSleep (n : BitVec 8) (s : State) : Host.Outcome State Fault Refusal :=
  andThen (chainSize n s) fun count =>
  .next ((s.setBus (wakeSleepPulses count s.bus)).setChain (s.chain.wake (wakeSleepCond count)))

end Sys2Proof.Machine
end

