-- ==== Sys2Proof/Machine/Dispatch.lean ====
section
/-! DEFINITION. Machine/Dispatch: one arm for each operation of spec/opcode_table.json. -/

namespace Sys2Proof.Machine

def exec (i : Instr) (s : State) : Host.Outcome State Fault Refusal :=
  match i with
  | .pec15 => Sys2Proof.Machine.execPec15 s
  | .cmd => Sys2Proof.Machine.execCmd s
  | .write n => Sys2Proof.Machine.execWrite n s
  | .read n => Sys2Proof.Machine.execRead n s
  | .wakeIdle n => Sys2Proof.Machine.execWakeIdle n s
  | .wakeSleep n => Sys2Proof.Machine.execWakeSleep n s
  | .initLimits numStat => Sys2Proof.Machine.execInitLimits numStat s
  | .wrgrp kind reg n => Sys2Proof.Machine.execWrgrp kind reg n s
  | .rdgrp kind reg n => Sys2Proof.Machine.execRdgrp kind reg n s

end Sys2Proof.Machine
end

