-- ==== Sys2Proof/Machine/HostPort.lean ====
section
/-! DEFINITION. Machine/HostPort: the host's reads and writes of the block's registers (10_state.md R43), one access
a step. They emit no bus event (20_memory.md R62). -/

namespace Sys2Proof.Machine

/-- A flag as the host reads it: 1 for true. -/
def flagWord (b : Bool) : Word := if b then 1 else 0

/-- Whether the mirror set `M[L]` exists: there are `MAX_IC` of them (R32). -/
def mirrorExists (ic : Fin 32) (s : State) : Bool := decide (ic.val < s.params.maxIc)

/-- Reads a slot of the mirror set of an IC and gives it to the host as a word. DESIGN CHOICE: a mirror set that does not
exist reads as one that nothing has written, and faults (R44; log 12). -/
def readMirror {α : Type} (ic : Fin 32) (s : State) (field : Mirror → Slot α) (toWord : α → Word) :
    Host.Outcome Word Fault Refusal :=
  andThen (Slot.read (if mirrorExists ic s then field (s.mirror ic.val) else .unwritten)) fun v => .next (toWord v)

/-- The value of a register the host may also write (R43). Reading `REQ` gives the last word written (R24). -/
def readRwValue (r : RwReg) (s : State) : Host.Outcome Word Fault Refusal :=
  match r with
  | .req => Slot.read s.req
  | .argCmd => andThen (Slot.read s.argCmd) fun v => .next (v.setWidth 32)
  | .argLen => andThen (Slot.read s.argLen) fun v => .next (v.setWidth 32)
  | .argLim => Slot.read s.argLim
  | .buf i => andThen (Memory.readByte s.buf i.toNat) fun v => .next (v.setWidth 32)
  | .isospiReverse ic => readMirror ic s (fun m => m.isospiReverse) flagWord
  | .tx ic k j => readMirror ic s (fun m => (m.get k).tx[j]) (fun v => v.setWidth 32)
  | .crcCount k => .next ((s.crc k).setWidth 32)

/-- The value of a register the host may only read (R43). The fields no operation writes always fault (R35, R36,
R193). -/
def readRoValue (r : RoReg) (s : State) : Host.Outcome Word Fault Refusal :=
  match r with
  | .rxbuf i => andThen (Memory.readByte s.rxbuf i.toNat) fun v => .next (v.setWidth 32)
  | .res => andThen (Slot.read s.res) fun v => .next (v.setWidth 32)
  | .lim f => andThen s.readLimits fun l => .next (l.field f)
  | .limValid => .next (flagWord s.limValid)
  | .rx ic k j => readMirror ic s (fun m => (m.get k).rx) (fun v => v[j].setWidth 32)
  | .pecErr ic k => readMirror ic s (fun m => (m.get k).pecErr) flagWord
  | .cvRaw ic g j => readMirror ic s (fun m => m.cv.raw[g]) (fun v => v[j].setWidth 32)
  | .cvPecErr ic g => readMirror ic s (fun m => m.cv.pecErr[g]) flagWord
  | .cCode ic i => readMirror ic s (fun m => m.cv.cCodes[i]) (fun v => v.setWidth 32)
  | .auxRaw ic g j => readMirror ic s (fun m => m.aux.raw[g]) (fun v => v[j].setWidth 32)
  | .auxPecErr ic g => readMirror ic s (fun m => m.aux.pecErr[g]) flagWord
  | .aCode ic i => readMirror ic s (fun m => m.aux.aCodes[i]) (fun v => v.setWidth 32)
  | .statRaw ic g j => readMirror ic s (fun m => m.stat.raw[g]) (fun v => v[j].setWidth 32)
  | .statPecErr ic g => readMirror ic s (fun m => m.stat.pecErr[g]) flagWord
  | .statCode ic i => readMirror ic s (fun m => m.stat.statCodes[i]) (fun v => v.setWidth 32)
  | .statFlags ic i => readMirror ic s (fun m => m.stat.flags[i]) (fun v => v.setWidth 32)
  | .muxFail ic => readMirror ic s (fun m => m.stat.muxFail) flagWord
  | .thsd ic => readMirror ic s (fun m => m.stat.thsd) flagWord
  | .rom a => .next (s.rom[a.toFin].setWidth 32)

/-- Replaces the mirror set of an IC. DESIGN CHOICE: a mirror set that does not exist has no field the host may write, and
a write to it is refused as one to a read-only register is (R43; log 12). -/
def writeMirror (ic : Fin 32) (s : State) (f : Mirror → Mirror) : Host.Outcome State Fault Refusal :=
  andThen (require (mirrorExists ic s) .hostWriteRO) fun _ =>
  .next (s.setMirrors (s.mirrors.setIfInBounds ic.val (f (s.mirror ic.val))))

/-- A host write to an operand register, a mirror or a counter (R43, R88). -/
def hostWrite (w : HostWrite) (s : State) : Host.Outcome State Fault Refusal :=
  match w with
  | .argCmd v => .next (s.setArgCmd v)
  | .argLen v => .next (s.setArgLen v)
  | .argLim v => .next (s.setArgLim v)
  | .buf i b => .next (s.setBuf (Memory.write s.buf i.toNat b))
  | .isospiReverse ic rev => writeMirror ic s fun m => { m with isospiReverse := .written rev }
  | .tx ic k j b => writeMirror ic s fun m => m.set k { m.get k with tx := (m.get k).tx.set j (.written b) }
  | .crcCount k v => .next (s.setCrcCount (s.crcCount.set (kindIndex k) v))

/-- A host read: the value goes to the host, and nothing of the block changes (R62; log 9). -/
def hostRead (v : Host.Outcome Word Fault Refusal) (s : State) : Host.Outcome State Fault Refusal :=
  andThen v fun w => .next (s.setLastRead w)

/-- A host access that starts no operation (R43). DEDUCED: which registers count as read-only, and that a write has the
width of its register (log 18). A write to a read-only field is refused whatever the index of its mirror set, one that
does not exist included (DESIGN CHOICE, log 12). -/
def hostAccess (a : PortAccess) (s : State) : Host.Outcome State Fault Refusal :=
  match a with
  | .write w => hostWrite w s
  | .writeRo _ => .refused .hostWriteRO
  | .readRw r => hostRead (readRwValue r s) s
  | .readRo r => hostRead (readRoValue r s) s

end Sys2Proof.Machine
end

