-- ==== Sys2Proof/Machine/Step.lean ====
section
/-! DEFINITION. Machine/Step: one step is one host access (20_memory.md R65). The block fetches no instruction (R68):
what stands for the fetch is the host's next write to `REQ` (R22, R24). -/

namespace Sys2Proof.Machine

/-- One step: the host's next access, or a wait if it makes none. A write to `REQ` is decoded and its operation runs to
completion (R22, R61); a word that is refused leaves `REQ` as it was, since the step then gives no state (R221; DEDUCED,
log 19). -/
def step (s : State) : Host.Outcome State Fault Refusal :=
  match nextAction s with
  | .busy => .refused .busy
  | .wait t => .next t
  | .access a t => hostAccess a t
  | .request w t =>
    match decode w with
    | .error e => .refused (refusalOf e)
    | .ok i => exec i (t.setReq w)

/-- `s` with the host's next access a write of the word to `REQ`, and the block ready to take it (log 2). -/
def State.withFetchWord (s : State) (nbits w : Nat) : State :=
  { s with seq := .idle, host := .request (BitVec.ofNat 32 (w % 2 ^ nbits)) :: s.host }

end Sys2Proof.Machine
end

