-- ==== Sys2Proof/Machine/RefChain.lean ====
section
/-! DEFINITION. Machine/RefChain: the reference chain environment of 41_framing.md R133. It is for tests and derived
properties only (the round trip of R134): the ICs' own registers are no state of the machine (R20), so it stands
outside State and acts on the frames of the bus trace (log 15). -/

namespace Sys2Proof.Machine

/-- A chain of ICs that are all READY: `stores` has one store for each chain position, nearest the host first, from
register identifiers to 6-byte values; `dec` names the register and direction a command word addresses. -/
structure RefChain where
  stores : List (List (Nat × List Byte))
  dec : List (Half × (Nat × Dir))
  deriving DecidableEq, Repr

/-- The frames of a piece of the bus trace: the bytes sent in each CSB-low span (R121). `cur` is what the open span
has sent so far. -/
def framesFrom (cur : List Byte) : List BusEvent → List (List Byte)
  | [] => []
  | .csLow :: es => framesFrom [] es
  | .xfer tx _ :: es => framesFrom (cur ++ [tx]) es
  | .delay _ :: es => framesFrom cur es
  | .csHigh :: es => cur :: framesFrom [] es

/-- The command word of a frame, if its PEC is valid. -/
def frameCommand (rom : Vector Half 256) (frame : List Byte) : Option Half :=
  match frame with
  | c0 :: c1 :: q0 :: q1 :: _ => if pec15 rom [c0, c1] = q0 ++ q1 then some (c0 ++ c1) else none
  | _ => none

/-- The data of the `j`-th group sent in a write frame, if the group is whole and its PEC is valid. -/
def frameGroup (rom : Vector Half 256) (frame : List Byte) (j : Nat) : Option (List Byte) :=
  match (frame.drop (4 + 8 * j)).take 8 with
  | [d0, d1, d2, d3, d4, d5, q0, q1] =>
    if pec15 rom [d0, d1, d2, d3, d4, d5] = q0 ++ q1 then some [d0, d1, d2, d3, d4, d5] else none
  | _ => none

/-- IC `i` of `n` takes the group with shift-order index `i`, the `(n-1-i)`-th sent, if its PEC is valid (R133). -/
def refStore (rom : Vector Half 256) (frame : List Byte) (reg n i : Nat) (store : List (Nat × List Byte)) :
    List (Nat × List Byte) :=
  match frameGroup rom frame (n - 1 - i) with
  | some d => (reg, d) :: store
  | none => store

/-- The chain after one frame: only a write command with a valid PEC changes a store (R133). -/
def RefChain.afterFrame (rom : Vector Half 256) (c : RefChain) (frame : List Byte) : RefChain :=
  match (frameCommand rom frame).bind (lookupKey c.dec) with
  | some (reg, .wr) => { c with stores := c.stores.mapIdx fun i st => refStore rom frame reg c.stores.length i st }
  | some (_, .rd) => c
  | none => c

/-- The chain after the frames of a piece of the bus trace. -/
def RefChain.afterEvents (rom : Vector Half 256) (c : RefChain) (es : List BusEvent) : RefChain :=
  (framesFrom [] es).foldl (RefChain.afterFrame rom) c

/-- The groups an addressed chain answers a command with, nearest IC first: `group_frame(S_i[r])` from each. None means
that the bytes are draws: no read command, or a register the stores do not list (R133). -/
def RefChain.reply (rom : Vector Half 256) (c : RefChain) (cmd : Half) : Option (List Byte) :=
  match lookupKey c.dec cmd with
  | some (reg, .rd) =>
    (c.stores.mapM fun st => lookupKey st reg).map fun ds => ds.flatMap (groupFrame rom)
  | some (_, .wr) => none
  | none => none

end Sys2Proof.Machine
end

