-- ==== Sys2Proof/Safety.lean ====
section
/-! DEFINITION. Safety: the terms in which the statements speak of good states and good runs. -/

namespace Sys2Proof.Machine

/-! ## The bus trace -/

/-- Follows `CSB` through a piece of the trace, from its level before. It fails on a `CsLow` while CSB is low, on a
`CsHigh` while it is high, and on a byte exchanged outside a CSB-low span (R121). -/
def traceScan : Bool → List BusEvent → Option Bool
  | csb, [] => some csb
  | true, .csLow :: es => traceScan false es
  | false, .csLow :: _ => none
  | false, .csHigh :: es => traceScan true es
  | true, .csHigh :: _ => none
  | false, .xfer _ _ :: es => traceScan false es
  | true, .xfer _ _ :: _ => none
  | csb, .delay _ :: es => traceScan csb es

/-- The bytes sent in a piece of the trace. -/
def sentBytes : List BusEvent → List Byte
  | [] => []
  | .xfer tx _ :: es => tx :: sentBytes es
  | .csLow :: es => sentBytes es
  | .csHigh :: es => sentBytes es
  | .delay _ :: es => sentBytes es

/-- The events of one CSB-low span that exchanges the given bytes. -/
def spanEvents (pairs : List (Byte × Byte)) : List BusEvent :=
  .csLow :: (pairs.map fun p => BusEvent.xfer p.1 p.2) ++ [.csHigh]

/-- The events of `WAKE_IDLE` for the bytes received at its pulses: one span each, with the gap between two (R151). -/
def wakeIdleEvents (gap : Nat) : List Byte → List BusEvent
  | [] => []
  | [rx] => spanEvents [(Config.wakeDummyByte, rx)]
  | rx :: rxs =>
    spanEvents [(Config.wakeDummyByte, rx)] ++ (if 0 < gap then [.delay gap] else []) ++ wakeIdleEvents gap rxs

/-- The events of one pulse of `WAKE_SLEEP` (R83, R152). -/
def wakeSleepEvents : List BusEvent := [.csLow, .delay 300, .csHigh, .delay 10]

/-- The least time that one event takes, in microseconds (R8, R160, R261). Only a `Delay` has a lower bound. -/
def eventMicroseconds : BusEvent → Nat
  | .delay t => t * Config.timeUnit
  | .csLow => 0
  | .csHigh => 0
  | .xfer _ _ => 0

/-- The least time that a piece of the trace takes, in microseconds. -/
def leastMicroseconds (es : List BusEvent) : Nat := (es.map eventMicroseconds).sum

/-- The events of one read transaction: the command frame, then the fill byte for every byte clocked in (R82). -/
def readEvents (rom : Vector Half 256) (c : Half) (cmdRx rx : List Byte) : List BusEvent :=
  spanEvents ((cmdFrame rom c).zip cmdRx ++ (List.replicate rx.length 0xFF).zip rx)

/-! ## Operands -/

/-- `N` lies in `1 .. MAX_IC` (R77). -/
abbrev goodSize (n : BitVec 8) (s : State) : Prop := 1 ≤ n.toNat ∧ n.toNat ≤ s.params.maxIc

/-- The store holds the bytes from address `a` up. -/
abbrev holdsBytes (m : Memory) (a : Nat) (bs : List Byte) : Prop :=
  ∀ i (h : i < bs.length), Memory.read m (a + i) = some bs[i]

/-- The `isospi_reverse` flags of `M[0 .. n-1]` all hold `rev`. -/
abbrev sameFlags (s : State) (n : Nat) (rev : Bool) : Prop :=
  ∀ ic < n, (s.mirror ic).isospiReverse = .written rev

/-- The transmit mirrors of kind `k` hold the 6-byte groups `d` in `M[0 .. n-1]`. -/
abbrev holdsTx (s : State) (k : SingleKind) (n : Nat) (d : Nat → List Byte) : Prop :=
  ∀ ic < n, ((s.mirror ic).get k).tx.toList = (d ic).map Slot.written

/-- `REG` lies in the range of the kind, and `LIM` is set if the kind needs it (R76). -/
def selectable (k : Kind) (reg : BitVec 4) (s : State) : Prop :=
  match k with
  | .single _ => reg.toNat ≤ 1
  | .multi m => s.limValid = true ∧ reg.toNat ≤ groupLimit m s.lim

/-- The groups `REG` selects, where it is in range (R76). -/
def selected (k : Kind) (reg : BitVec 4) (s : State) : List Nat :=
  match k with
  | .single _ => [1]
  | .multi m => if reg = 0 then List.range' 1 (groupLimit m s.lim) else [reg.toNat]

/-- The ICs an operation addresses: `N`, or none for the operations that have no `N` (R45, R73). -/
def chainLength : Instr → Nat
  | .pec15 => 0
  | .cmd => 0
  | .write n => n.toNat
  | .read n => n.toNat
  | .wakeIdle n => n.toNat
  | .wakeSleep n => n.toNat
  | .initLimits _ => 0
  | .wrgrp _ _ n => n.toNat
  | .rdgrp _ _ n => n.toNat

/-- The operations after which `RES` holds a new value (R30). -/
def writesRes : Instr → Bool
  | .pec15 => true
  | .cmd => false
  | .write _ => false
  | .read _ => true
  | .wakeIdle _ => false
  | .wakeSleep _ => false
  | .initLimits _ => false
  | .wrgrp _ _ _ => false
  | .rdgrp _ _ _ => true

/-- How awake a condition is. -/
def condRank : Cond → Nat
  | .sleep => 0
  | .idle => 1
  | .ready => 2

/-- The last received group `g` of a kind with several groups, and its PEC flag (R34 to R36). -/
def lastGroup (m : MultiKind) (x : Mirror) (g : Nat) : Slot Group × Slot Bool :=
  match m with
  | .cv => ((x.cv.raw[g - 1]?).getD .unwritten, (x.cv.pecErr[g - 1]?).getD .unwritten)
  | .aux => ((x.aux.raw[g - 1]?).getD .unwritten, (x.aux.pecErr[g - 1]?).getD .unwritten)
  | .stat => ((x.stat.raw[g - 1]?).getD .unwritten, (x.stat.pecErr[g - 1]?).getD .unwritten)

/-- The mirror sets `x` and `y` are the same but for what `RDGRP` of a kind with several groups stores: the raw groups,
their flags and, for CV, the cell codes (R188, R189). -/
def sameButReceived (m : MultiKind) (x y : Mirror) : Prop :=
  match m with
  | .cv => y = { x with cv := y.cv }
  | .aux => y = { x with aux := { x.aux with raw := y.aux.raw, pecErr := y.aux.pecErr } }
  | .stat => y = { x with stat := { x.stat with raw := y.stat.raw, pecErr := y.stat.pecErr } }

/-- How many groups a mirror of the kind holds (R9). -/
def groupRoom : MultiKind → Nat
  | .cv => 6
  | .aux => 4
  | .stat => 2

/-- What the host gets from a register of the block: its value as a word, or the fault of R44 while it is unwritten. -/
def delivers {α : Type} (x : Slot α) (toWord : α → Word) : Host.Outcome Word Fault Refusal :=
  match x with
  | .written v => .next (toWord v)
  | .unwritten => .fault .unwritten

/-- What the host gets from a byte of a buffer. -/
def deliversByte (m : Memory) (a : Nat) : Host.Outcome Word Fault Refusal :=
  match Memory.read m a with
  | some b => .next (b.setWidth 32)
  | none => .fault .unwritten

/-- The index of the mirror set that a register belongs to, if it belongs to one (R52). -/
def mirrorSetOf : HostReg → Option (Fin 32)
  | .rw .req => none
  | .rw .argCmd => none
  | .rw .argLen => none
  | .rw .argLim => none
  | .rw (.buf _) => none
  | .rw (.isospiReverse ic) => some ic
  | .rw (.tx ic _ _) => some ic
  | .rw (.crcCount _) => none
  | .ro (.rxbuf _) => none
  | .ro .res => none
  | .ro (.lim _) => none
  | .ro .limValid => none
  | .ro (.rx ic _ _) => some ic
  | .ro (.pecErr ic _) => some ic
  | .ro (.cvRaw ic _ _) => some ic
  | .ro (.cvPecErr ic _) => some ic
  | .ro (.cCode ic _) => some ic
  | .ro (.auxRaw ic _ _) => some ic
  | .ro (.auxPecErr ic _) => some ic
  | .ro (.aCode ic _) => some ic
  | .ro (.statRaw ic _ _) => some ic
  | .ro (.statPecErr ic _) => some ic
  | .ro (.statCode ic _) => some ic
  | .ro (.statFlags ic _) => some ic
  | .ro (.muxFail ic) => some ic
  | .ro (.thsd ic) => some ic
  | .ro (.rom _) => none

/-- The host register that a host write writes. -/
def writtenReg : HostWrite → RwReg
  | .argCmd _ => .argCmd
  | .argLen _ => .argLen
  | .argLim _ => .argLim
  | .buf i _ => .buf i
  | .isospiReverse ic _ => .isospiReverse ic
  | .tx ic k j _ => .tx ic k j
  | .crcCount k _ => .crcCount k

/-- The value a host write writes, as the host reads it back. -/
def writtenWord : HostWrite → Word
  | .argCmd v => v.setWidth 32
  | .argLen v => v.setWidth 32
  | .argLim v => v
  | .buf _ b => b.setWidth 32
  | .isospiReverse _ rev => if rev then 1 else 0
  | .tx _ _ _ b => b.setWidth 32
  | .crcCount _ v => v.setWidth 32

/-- Whether the mirror set a host write names, if it names one, exists (R32). -/
def namesMirror (w : HostWrite) (s : State) : Prop :=
  match w with
  | .argCmd _ => True
  | .argLen _ => True
  | .argLim _ => True
  | .buf _ _ => True
  | .isospiReverse ic _ => ic.val < s.params.maxIc
  | .tx ic _ _ _ => ic.val < s.params.maxIc
  | .crcCount _ _ => True

/-- Two results of the same kind, related by `r` where both are states. -/
def sameOutcome (r : State → State → Prop) : Host.Outcome State Fault Refusal → Host.Outcome State Fault Refusal → Prop
  | .next t, .next u => r t u
  | .fault a, .fault b => a = b
  | .refused a, .refused b => a = b
  | _, _ => False

/-! ## The invariant -/

/-- The fields of a mirror set that no operation writes hold what reset left (R35, R36, R193). -/
def undecoded (m : Mirror) : Prop :=
  m.aux.aCodes = Mirror.reset.aux.aCodes ∧ m.stat.statCodes = Mirror.reset.stat.statCodes ∧
  m.stat.flags = Mirror.reset.stat.flags ∧ m.stat.muxFail = .unwritten ∧ m.stat.thsd = .unwritten

/-- What holds at reset and in every state a step leaves. -/
structure Inv (s : State) : Prop where
  /-- `ROM` holds `PEC_TABLE` at all times (R23, R250). -/
  rom : s.rom = Config.pecTable
  /-- Every operation is atomic: between steps `SEQ` is IDLE (R22). -/
  idle : s.seq = .idle
  /-- `CSB` is 1 between operations (R39). -/
  csbHigh : s.bus.csb = true
  /-- The trace keeps the CSB discipline (R121). -/
  discipline : traceScan true s.bus.trace = some true
  /-- `BUF` is in canonical form. -/
  bufWf : Memory.wf s.buf = true
  /-- `RXBUF` is in canonical form. -/
  rxbufWf : Memory.wf s.rxbuf = true
  /-- `LIM` is in its legal ranges once it is set (R31). -/
  limits : s.limValid = true → limitsOk s.lim = true
  /-- The fields that are never written are unwritten (R193). -/
  undecodedMirrors : ∀ ic, undecoded (s.mirror ic)

/-! ## Runs of a host program -/

/-- The host goes on after a refused access: the access is gone and nothing else has changed (R221; log 10). -/
def State.dropAccess (s : State) : State := s.setHost s.host.tail

/-- Up to `k` accesses of the host's program, going on past refusals as 95_test_vectors.md P4 does. A fault ends the
run (R235). -/
def runHost : Nat → State → Host.Outcome State Fault Refusal
  | 0, s => .next s
  | k + 1, s =>
    match step s with
    | .next t => runHost k t
    | .refused _ => runHost k s.dropAccess
    | .fault r => .fault r

end Sys2Proof.Machine
end

