-- ==== Sys2Proof/Certificates/Slice0/Obligations.lean ====
section
/-! DEFINITION. Certificates/Slice0/Obligations: the statements about the machine, each from the spec's numbered
rules. OBLIGATIONS.json gives each its tier, its rules and its words. -/

open Sys2Proof Sys2Proof.Machine

/-! ## Encoding and decoding -/

/-- R71, R73, R74, R88: the word of a well-formed instruction decodes to it, whatever its operands. -/
def Obligations.DecodeEncodeRoundTrip : Prop :=
  ∀ i : Instr, i.wf = true → decode (encode i) = .ok i

/-- R85: a word that decodes is the one word of its instruction. -/
def Obligations.EncodeDecodeRoundTrip : Prop :=
  ∀ (w : Word) (i : Instr), decode w = .ok i → encode i = w ∧ i.wf = true

/-- R73, R74, R88: request words of 95_test_vectors.md and the instructions they stand for. -/
def Obligations.RequestWordsDecode : Prop :=
  decode 0x00000001 = .ok .pec15 ∧ decode 0x00000002 = .ok .cmd ∧ decode 0x00003003 = .ok (.write 3) ∧
  decode 0x00002004 = .ok (.read 2) ∧ decode 0x00002005 = .ok (.wakeIdle 2) ∧
  decode 0x00020006 = .ok (.wakeSleep 32) ∧ decode 0x00000207 = .ok (.initLimits 2) ∧
  decode 0x00002008 = .ok (.wrgrp (.named (.single .cfga)) 0 2) ∧
  decode 0x00001529 = .ok (.rdgrp (.named (.multi .cv)) 5 1) ∧
  decode 0x000010A9 = .ok (.rdgrp (.reserved 0xA) 0 1)

/-- R72: a request with a reserved bit set is refused, whatever its other fields. -/
def Obligations.ReservedBitsAreRefused : Prop :=
  ∀ (s : State) (w : Word) (rest : List HostAccess), s.seq = .idle → s.host = .request w :: rest →
    w.extractLsb' 20 12 ≠ 0 → step s = .refused .reservedBits

/-- R85, R86: after the reserved bits the op code is checked, and after it the fields the operation does not use. -/
def Obligations.RequestCheckOrder : Prop :=
  ∀ (s : State) (w : Word) (rest : List HostAccess), s.seq = .idle → s.host = .request w :: rest →
    w.extractLsb' 20 12 = 0 →
    ((opField w = 0 ∨ 10 ≤ (opField w).toNat) → step s = .refused .reservedOp) ∧
    ((opField w = 1 ∨ opField w = 2) → (kindField w ≠ 0 ∨ regField w ≠ 0 ∨ nField w ≠ 0) →
      step s = .refused .unusedField) ∧
    ((opField w = 3 ∨ opField w = 4 ∨ opField w = 5 ∨ opField w = 6) → (kindField w ≠ 0 ∨ regField w ≠ 0) →
      step s = .refused .unusedField) ∧
    (opField w = 7 → (kindField w ≠ 0 ∨ nField w ≠ 0) → step s = .refused .unusedField)

/-- R89: the one request word of each pseudo-operation. -/
def Obligations.PseudoOperationsAreOneRequest : Prop :=
  ∀ (n : BitVec 8) (reg : BitVec 4),
    encode (Pseudo.expand (.wrcfga n)) = packReq n 0 0x0 0x8 ∧ encode (Pseudo.expand (.wrcfgb n)) = packReq n 0 0x1 0x8 ∧
    encode (Pseudo.expand (.wrcomm n)) = packReq n 0 0x5 0x8 ∧ encode (Pseudo.expand (.wrpwm n)) = packReq n 0 0x6 0x8 ∧
    encode (Pseudo.expand (.wrpwmb n)) = packReq n 0 0x7 0x8 ∧ encode (Pseudo.expand (.wrsctrl n)) = packReq n 0 0x8 0x8 ∧
    encode (Pseudo.expand (.wrsctrlb n)) = packReq n 0 0x9 0x8 ∧
    encode (Pseudo.expand (.rdcfga n)) = packReq n 0 0x0 0x9 ∧ encode (Pseudo.expand (.rdcfgb n)) = packReq n 0 0x1 0x9 ∧
    encode (Pseudo.expand (.rdcomm n)) = packReq n 0 0x5 0x9 ∧ encode (Pseudo.expand (.rdpwm n)) = packReq n 0 0x6 0x9 ∧
    encode (Pseudo.expand (.rdpwmb n)) = packReq n 0 0x7 0x9 ∧ encode (Pseudo.expand (.rdsctrl n)) = packReq n 0 0x8 0x9 ∧
    encode (Pseudo.expand (.rdsctrlb n)) = packReq n 0 0x9 0x9 ∧
    encode (Pseudo.expand (.rdcv reg n)) = packReq n reg 0x2 0x9 ∧ encode (Pseudo.expand (.rdaux reg n)) = packReq n reg 0x3 0x9 ∧
    encode (Pseudo.expand (.rdstat reg n)) = packReq n reg 0x4 0x9

/-! ## The step -/

/-- R22, R24, R43, R65: when the host's next access writes a word that decodes, the step is that instruction's `exec`, on
the state with the access taken off the host's list, the chain's timeouts taken (R156) and the word in `REQ`. When it is
another read or write of a register, the step is that access, on the state with it taken off and the timeouts taken.
(The list of accesses is the model's, log 2, and so is the place of the timeouts, log 7.) -/
def Obligations.StepRunsTheDecodedRequest : Prop :=
  (∀ (s : State) (w : Word) (rest : List HostAccess) (i : Instr), s.seq = .idle → s.host = .request w :: rest →
    decode w = .ok i → step s = exec i ((s.setHost rest).timeouts.setReq w)) ∧
  ∀ (s : State) (a : PortAccess) (rest : List HostAccess), s.seq = .idle → s.host = .port a :: rest →
    step s = hostAccess a (s.setHost rest).timeouts

/-- R252, R156: with no access to come the block waits: nothing changes but the chain, which may time out. -/
def Obligations.BlockWaitsForTheHost : Prop :=
  ∀ s : State, s.host = [] → ∃ t, step s = .next t ∧ t = s.setChain t.chain

/-- R254 (the choice of a refusal before a stall is the model's, log 10): while `SEQ = BUSY` every access is
refused. -/
def Obligations.BusyBlockRefusesAccess : Prop :=
  ∀ (s : State) (a : HostAccess) (rest : List HostAccess), s.seq = .busy → s.host = a :: rest →
    step s = .refused .busy

/-- R221 (that the host goes on is 95_test_vectors.md P4's reading, log 10): a refused access has no effect: the run goes
on from the same state, the access taken off the host's list. -/
def Obligations.RefusedAccessHasNoEffect : Prop :=
  ∀ (s : State) (a : HostAccess) (rest : List HostAccess) (r : Refusal) (k : Nat), s.host = a :: rest →
    step s = .refused r → runHost (k + 1) s = runHost k { s with host := rest }

/-! ## PEC15 -/

/-- R102: every entry of the table is the one the procedure with `PEC_POLY` gives. -/
def Obligations.PecTableComesFromThePolynomial : Prop :=
  ∀ i : Byte, Config.pecTable[i.toFin] = Config.pecTableEntry i

/-- R103: the table form and the bit-serial form are one function. -/
def Obligations.PecTableFormIsTheBitSerialForm : Prop :=
  ∀ data : List Byte, pec15 Config.pecTable data = pec15Bitwise data

/-- R104: flipping any one bit of a byte list changes its PEC, and bit 0 of a PEC is 0. -/
def Obligations.PecChangesWithEveryBit : Prop :=
  (∀ (data : List Byte) (i : Nat) (h : i < data.length) (bit : Fin 8),
    pec15 Config.pecTable (data.set i (data[i] ^^^ (1#8 <<< bit.val))) ≠ pec15 Config.pecTable data) ∧
  ∀ data : List Byte, (pec15 Config.pecTable data).getLsbD 0 = false

/-- R127: a received group is bad exactly if the PEC of its first 6 bytes differs from `{r[6], r[7]}`, and one whose
last byte is odd is always bad. -/
def Obligations.ReceivedGroupIsBadOnPecMismatch : Prop :=
  ∀ (rom : Vector Half 256) (r : Group),
    (groupBad rom r = true ↔ pec15 rom [r[0], r[1], r[2], r[3], r[4], r[5]] ≠ r[6] ++ r[7]) ∧
    (r[7].getLsbD 0 = true → groupBad rom r = true)

/-- R105: the PEC of the empty list and of one zero byte. -/
def Obligations.PecCornerValues : Prop :=
  pec15 Config.pecTable [] = 0x0020 ∧ pec15 Config.pecTable [0x00] = 0x2000

/-- R100: with `ARG_LEN` and the bytes of `BUF` it counts written, `PEC15` completes, `RES` is their PEC and nothing
else changes. -/
def Obligations.Pec15PutsThePecInRes : Prop :=
  ∀ (s : State) (len : Byte) (data : List Byte), s.argLen = .written len → data.length = len.toNat →
    holdsBytes s.buf 0 data → exec .pec15 s = .next { s with res := .written (pec15 s.rom data) }

/-- R100, R44: `PEC15` faults while `ARG_LEN`, or a byte of `BUF` that it counts, is unwritten. -/
def Obligations.Pec15FaultsOnUnwrittenOperands : Prop :=
  (∀ s : State, s.argLen = .unwritten → exec .pec15 s = .fault .unwritten) ∧
  ∀ (s : State) (len : Byte) (i : Nat), s.argLen = .written len → i < len.toNat → Memory.read s.buf i = none →
    exec .pec15 s = .fault .unwritten

/-- R105: what `PEC15` does is the same for any two contents of `BUF` that agree below `ARG_LEN`. -/
def Obligations.Pec15IgnoresBytesPastLen : Prop :=
  ∀ (s : State) (m : Memory) (len : Byte), s.argLen = .written len →
    (∀ i < len.toNat, Memory.read m i = Memory.read s.buf i) →
    sameOutcome (fun t u => u = t.setBuf m) (exec .pec15 s) (exec .pec15 (s.setBuf m))

/-- R62: `PEC15` is idempotent. -/
def Obligations.Pec15IsIdempotent : Prop :=
  ∀ s t : State, exec .pec15 s = .next t → exec .pec15 t = .next t

/-! ## Commands and transactions -/

/-- R77: an operation that uses `N` is refused unless `1 <= N <= MAX_IC`; one that does not requires `N = 0`. -/
def Obligations.ChainSizeIsChecked : Prop :=
  (∀ (s : State) (n : BitVec 8) (kind : KindField) (reg : BitVec 4), ¬ goodSize n s →
    exec (.write n) s = .refused .chainSize ∧ exec (.read n) s = .refused .chainSize ∧
    exec (.wakeIdle n) s = .refused .chainSize ∧ exec (.wakeSleep n) s = .refused .chainSize ∧
    exec (.wrgrp kind reg n) s = .refused .chainSize ∧ exec (.rdgrp kind reg n) s = .refused .chainSize) ∧
  ∀ w : Word, w.extractLsb' 20 12 = 0 → (opField w = 1 ∨ opField w = 2 ∨ opField w = 7) → nField w ≠ 0 →
    decode w = .error .unusedField

/-- R123, R79: `CMD` completes for every command word: one span with the command, its PEC high byte first, and
nothing of the block changes but the bus (and of the environment the chain's timeouts). -/
def Obligations.CmdSendsTheCommandFrame : Prop :=
  ∀ (s : State) (c : Half), s.argCmd = .written c →
    ∃ t rx, exec .cmd s = .next t ∧ rx.length = 4 ∧
      t.bus.trace = s.bus.trace ++ spanEvents
        ([hiByte c, loByte c, hiByte (pec15 s.rom [hiByte c, loByte c]), loByte (pec15 s.rom [hiByte c, loByte c])].zip
          rx) ∧
      t.bus.csb = true ∧ t = { s with bus := t.bus, chain := t.chain }

/-- R125, R81, R57: `WRITE` completes: one span with the command frame and then the `N` groups of `BUF`, each with its
PEC, the last shift-order index first; nothing else of the block changes. -/
def Obligations.WriteSendsTheLastGroupFirst : Prop :=
  ∀ (s : State) (n : BitVec 8) (c : Half) (groups : List (List Byte)), goodSize n s → s.argCmd = .written c →
    groups.length = n.toNat → (∀ p (h : p < groups.length), groups[p].length = 6 ∧ holdsBytes s.buf (6 * p) groups[p]) →
    ∃ t rx, exec (.write n) s = .next t ∧ rx.length = 4 + 8 * n.toNat ∧
      t.bus.trace = s.bus.trace ++ spanEvents
        ((cmdFrame s.rom c ++ (groups.reverse.map (groupFrame s.rom)).flatten).zip rx) ∧
      t.bus.csb = true ∧ t = { s with bus := t.bus, chain := t.chain }

/-- R126, R129, R132: `READ` completes: the whole read frame is exchanged, `RXBUF[0 .. 8N)` holds the bytes received,
the rest of it stays, `RES` is 0xFFFF if a group is bad and else 0, and nothing else of the block changes. -/
def Obligations.ReadStoresWhatItReceives : Prop :=
  ∀ (s : State) (n : BitVec 8) (c : Half), goodSize n s → s.argCmd = .written c →
    ∃ t cmdRx rx, exec (.read n) s = .next t ∧ cmdRx.length = 4 ∧ rx.length = 8 * n.toNat ∧
      t.bus.trace = s.bus.trace ++ readEvents s.rom c cmdRx rx ∧ t.bus.csb = true ∧
      holdsBytes t.rxbuf 0 rx ∧ (∀ a, 8 * n.toNat ≤ a → Memory.read t.rxbuf a = Memory.read s.rxbuf a) ∧
      ((∃ p < n.toNat, groupBad s.rom (groupAt rx p) = true) → t.res = .written 0xFFFF) ∧
      ((∀ p < n.toNat, groupBad s.rom (groupAt rx p) = false) → t.res = .written 0x0000) ∧
      t = { s with bus := t.bus, chain := t.chain, rxbuf := t.rxbuf, res := t.res }

/-- R120, R130: the bytes `READ` stores are the environment's, those of the command phase being discarded: if the next
answers it is set to give are `cmdRx`, `rx` and others, `RXBUF` holds `rx` and the others are still to come. -/
def Obligations.ReadReceivesTheEnvironmentsBytes : Prop :=
  ∀ (s t : State) (n : BitVec 8) (cmdRx rx rest : List Byte), cmdRx.length = 4 → rx.length = 8 * n.toNat →
    s.bus.rx.plan = cmdRx ++ (rx ++ rest) → exec (.read n) s = .next t →
    holdsBytes t.rxbuf 0 rx ∧ t.bus.rx.plan = rest

/-- R123, R125, R126, R44: a transaction whose command word, or whose group data in `BUF`, is unwritten faults. -/
def Obligations.TransactionsFaultOnUnwrittenOperands : Prop :=
  (∀ s : State, s.argCmd = .unwritten → exec .cmd s = .fault .unwritten) ∧
  (∀ (s : State) (n : BitVec 8), goodSize n s → s.argCmd = .unwritten →
    exec (.write n) s = .fault .unwritten ∧ exec (.read n) s = .fault .unwritten) ∧
  ∀ (s : State) (n : BitVec 8) (c : Half) (i : Nat), goodSize n s → s.argCmd = .written c → i < 6 * n.toNat →
    Memory.read s.buf i = none → exec (.write n) s = .fault .unwritten

/-! ## Waking the chain -/

/-- R151: `WAKE_IDLE` completes with one pulse and one dummy byte for each IC position, the gap between two where it is
above 0, and nothing else of the block changes. -/
def Obligations.WakeIdlePulsesEveryPosition : Prop :=
  ∀ (s : State) (n : BitVec 8), goodSize n s →
    ∃ t rxs, exec (.wakeIdle n) s = .next t ∧ rxs.length = n.toNat ∧
      t.bus.trace = s.bus.trace ++ wakeIdleEvents s.params.tIdleGap rxs ∧ t.bus.csb = true ∧
      t = { s with bus := t.bus, chain := t.chain }

/-- R152: `WAKE_SLEEP` completes with `N` times CSB low for 300 units, high, and a wait of 10; no byte is clocked, and
nothing else of the block changes. With the time unit of R160 (taken by the spec from general knowledge, log 13) the
events appended take `310 N` microseconds or more. -/
def Obligations.WakeSleepHoldsCsbLow : Prop :=
  ∀ (s : State) (n : BitVec 8), goodSize n s →
    ∃ t, exec (.wakeSleep n) s = .next t ∧
      t.bus.trace = s.bus.trace ++ (List.replicate n.toNat wakeSleepEvents).flatten ∧ t.bus.csb = true ∧
      leastMicroseconds t.bus.trace = leastMicroseconds s.bus.trace + 310 * n.toNat ∧
      t.bus.rx = s.bus.rx ∧ t = { s with bus := t.bus, chain := t.chain }

/-- R154: after `WAKE_IDLE` every IC below `N` that was IDLE or READY at the start is READY. (Where `N` is not `N_CHAIN`,
that this holds of the positions below `N` is the model's reading of R159: log 17.) -/
def Obligations.WakeIdleMakesIdleIcsReady : Prop :=
  ∀ (s t : State) (n : BitVec 8), exec (.wakeIdle n) s = .next t →
    t.chain.cond.length = s.chain.cond.length ∧
    ∀ i < n.toNat, (s.chain.cond[i]? = some .idle ∨ s.chain.cond[i]? = some .ready) → t.chain.cond[i]? = some .ready

/-- R153: after `WAKE_SLEEP` every IC below `N` is READY, whatever it was. (Where `N` is not `N_CHAIN`: log 17.) -/
def Obligations.WakeSleepMakesEveryIcReady : Prop :=
  ∀ (s t : State) (n : BitVec 8), exec (.wakeSleep n) s = .next t →
    t.chain.cond.length = s.chain.cond.length ∧
    ∀ i < n.toNat, i < s.chain.cond.length → t.chain.cond[i]? = some .ready

/-- R155, R159 (the form of a draw is the model's: log 6): a SLEEP IC under `WAKE_IDLE`, and an IC at a position of `N`
or above under either wake, ends in whatever condition the environment draws for it. -/
def Obligations.WakesLeaveTheRestToTheEnvironment : Prop :=
  (∀ (s t : State) (n : BitVec 8) (i : Nat) (x y : Cond), exec (.wakeIdle n) s = .next t →
    s.chain.cond[i]? = some x → s.chain.draws.plan[i]? = some y → (x = .sleep ∨ n.toNat ≤ i) →
    t.chain.cond[i]? = some y) ∧
  ∀ (s t : State) (n : BitVec 8) (i : Nat) (x y : Cond), exec (.wakeSleep n) s = .next t →
    s.chain.cond[i]? = some x → s.chain.draws.plan[i]? = some y → n.toNat ≤ i → t.chain.cond[i]? = some y

/-- R156: no operation but a wake raises the condition of an IC, nor does a step that waits or serves another access. -/
def Obligations.OnlyWakesRaiseACondition : Prop :=
  (∀ (s t : State) (i : Instr), (∀ n, i ≠ .wakeIdle n) → (∀ n, i ≠ .wakeSleep n) → exec i s = .next t →
    ∀ (p : Nat) (x : Cond), s.chain.cond[p]? = some x → ∃ y, t.chain.cond[p]? = some y ∧ condRank y ≤ condRank x) ∧
  ∀ s t : State, (∀ w rest, s.host ≠ .request w :: rest) → step s = .next t →
    ∀ (p : Nat) (x : Cond), s.chain.cond[p]? = some x → ∃ y, t.chain.cond[p]? = some y ∧ condRank y ≤ condRank x

/-! ## Variant limits -/

/-- R182: the first `INIT_LIMITS` with every limit in range completes: `LIM` holds the fields of `ARG_LIM` and `REG`,
`LIM_VALID` is 1, and nothing else changes. -/
def Obligations.InitLimitsLoadsTheLimits : Prop :=
  ∀ (s : State) (v : Word) (numStat : BitVec 4), s.limValid = false → s.argLim = .written v →
    (v.extractLsb' 0 8).toNat ≤ 18 → (v.extractLsb' 8 8).toNat ≤ 9 → (v.extractLsb' 16 8).toNat ≤ 4 →
    1 ≤ (v.extractLsb' 24 4).toNat → (v.extractLsb' 24 4).toNat ≤ 6 →
    1 ≤ (v.extractLsb' 28 4).toNat → (v.extractLsb' 28 4).toNat ≤ 4 → 1 ≤ numStat.toNat → numStat.toNat ≤ 2 →
    (v.extractLsb' 0 8).toNat ≤ 3 * (v.extractLsb' 24 4).toNat →
    exec (.initLimits numStat) s = .next { s with
      lim := ⟨v.extractLsb' 0 8, v.extractLsb' 8 8, v.extractLsb' 16 8, v.extractLsb' 24 4, v.extractLsb' 28 4, numStat⟩
      limValid := true }

/-- R182: `INIT_LIMITS` is refused once `LIM` is set, faults while `ARG_LIM` is unwritten, and is refused when a limit
is out of range, in that order. -/
def Obligations.InitLimitsStops : Prop :=
  (∀ (s : State) (numStat : BitVec 4), s.limValid = true → exec (.initLimits numStat) s = .refused .limitsSet) ∧
  (∀ (s : State) (numStat : BitVec 4), s.limValid = false → s.argLim = .unwritten →
    exec (.initLimits numStat) s = .fault .unwritten) ∧
  ∀ (s : State) (v : Word) (numStat : BitVec 4), s.limValid = false → s.argLim = .written v →
    (18 < (v.extractLsb' 0 8).toNat ∨ 9 < (v.extractLsb' 8 8).toNat ∨ 4 < (v.extractLsb' 16 8).toNat ∨
      v.extractLsb' 24 4 = 0 ∨ 6 < (v.extractLsb' 24 4).toNat ∨ v.extractLsb' 28 4 = 0 ∨
      4 < (v.extractLsb' 28 4).toNat ∨ numStat = 0 ∨ 2 < numStat.toNat ∨
      3 * (v.extractLsb' 24 4).toNat < (v.extractLsb' 0 8).toNat) →
    exec (.initLimits numStat) s = .refused .limitsRange

/-- R31: `LIM` is set once and only read thereafter, whatever the host does next. -/
def Obligations.LimitsNeverChangeOnceSet : Prop :=
  ∀ s t : State, s.limValid = true → step s = .next t → t.lim = s.lim ∧ t.limValid = true

/-! ## Register groups -/

/-- R184, R180: `WRGRP` completes: the transmit mirrors go out after the command frame, the group of shift-order index
`N-1` first, index `p` being that of IC `p`, or of IC `N-1-p` on a reversed chain. They stay in `BUF[0 .. 6N)`, the
rest of `BUF` stays, and nothing else of the block changes. -/
def Obligations.WrgrpSendsTheTransmitMirrors : Prop :=
  ∀ (s : State) (n : BitVec 8) (reg : BitVec 4) (k : SingleKind) (rev : Bool) (d : Nat → List Byte), goodSize n s →
    reg.toNat ≤ 1 → sameFlags s n.toNat rev → holdsTx s k n.toNat d →
    ∃ t rx, exec (.wrgrp (.named (.single k)) reg n) s = .next t ∧ rx.length = 4 + 8 * n.toNat ∧
      t.bus.trace = s.bus.trace ++ spanEvents
        ((cmdFrame s.rom (s.params.cmdCode (.single k) .wr 1) ++
          ((List.range n.toNat).reverse.map fun p =>
            groupFrame s.rom (d (if rev then n.toNat - 1 - p else p))).flatten).zip rx) ∧
      t.bus.csb = true ∧
      (∀ p < n.toNat, ∀ j < 6, Memory.read t.buf (6 * p + j) = (d (if rev then n.toNat - 1 - p else p))[j]?) ∧
      (∀ a, 6 * n.toNat ≤ a → Memory.read t.buf a = Memory.read s.buf a) ∧
      t = { s with bus := t.bus, chain := t.chain, buf := t.buf }

/-- R184, R75, R76: where `WRGRP` stops, with `N` in range: a kind without a transmit mirror, a group out of range, an
unwritten transmit byte. -/
def Obligations.WrgrpStops : Prop :=
  (∀ (s : State) (n : BitVec 8) (reg : BitVec 4) (kind : KindField), goodSize n s →
    (∀ k, kind ≠ .named (.single k)) → exec (.wrgrp kind reg n) s = .refused .kindNotWritable) ∧
  (∀ (s : State) (n : BitVec 8) (reg : BitVec 4) (k : SingleKind), goodSize n s → 1 < reg.toNat →
    exec (.wrgrp (.named (.single k)) reg n) s = .refused .groupRange) ∧
  ∀ (s : State) (n : BitVec 8) (reg : BitVec 4) (k : SingleKind) (rev : Bool) (ic : Nat) (j : Fin 6), goodSize n s →
    reg.toNat ≤ 1 → sameFlags s n.toNat rev → ic < n.toNat → ((s.mirror ic).get k).tx[j] = .unwritten →
    exec (.wrgrp (.named (.single k)) reg n) s = .fault .unwritten

/-- R181: with every check before it passed, `WRGRP` or `RDGRP` faults if `M[0].isospi_reverse` is unwritten, is refused
if the first of `M[1 .. N-1]` whose flag is not the same holds the other value, and faults if that one is
unwritten. -/
def Obligations.ReverseFlagsAreChecked : Prop :=
  ∀ (s : State) (n : BitVec 8) (reg : BitVec 4) (i : Instr), goodSize n s →
    ((∃ k, i = .wrgrp (.named (.single k)) reg n ∧ reg.toNat ≤ 1) ∨
      ∃ k, i = .rdgrp (.named k) reg n ∧ selectable k reg s) →
    ((s.mirror 0).isospiReverse = .unwritten → exec i s = .fault .unwritten) ∧
    ∀ (rev : Bool) (ic : Nat), 0 < ic → ic < n.toNat → sameFlags s ic rev →
      ((s.mirror ic).isospiReverse = .written (!rev) → exec i s = .refused .reverseMismatch) ∧
      ((s.mirror ic).isospiReverse = .unwritten → exec i s = .fault .unwritten)

/-- R186, R188, R190: `RDGRP` of a single-group kind completes: one read transaction; the group received for IC `p`, or
`N-1-p` on a reversed chain, is in its receive mirror with its PEC flag, bad or not; the tally of the kind grows by the
number of bad groups; `RXBUF` and `RES` are as after `READ`; nothing else of the block changes. -/
def Obligations.RdgrpFillsTheReceiveMirrors : Prop :=
  ∀ (s : State) (n : BitVec 8) (reg : BitVec 4) (k : SingleKind) (rev : Bool), goodSize n s → reg.toNat ≤ 1 →
    sameFlags s n.toNat rev →
    ∃ t cmdRx rx, exec (.rdgrp (.named (.single k)) reg n) s = .next t ∧ cmdRx.length = 4 ∧ rx.length = 8 * n.toNat ∧
      t.bus.trace = s.bus.trace ++ readEvents s.rom (s.params.cmdCode (.single k) .rd 1) cmdRx rx ∧
      t.bus.csb = true ∧
      holdsBytes t.rxbuf 0 rx ∧ (∀ a, 8 * n.toNat ≤ a → Memory.read t.rxbuf a = Memory.read s.rxbuf a) ∧
      (∀ p < n.toNat, ∀ ic, ic = (if rev then n.toNat - 1 - p else p) →
        t.mirror ic = (s.mirror ic).set k
          { tx := ((s.mirror ic).get k).tx
            rx := .written (groupAt rx p)
            pecErr := .written (groupBad s.rom (groupAt rx p)) }) ∧
      (∀ ic, n.toNat ≤ ic → t.mirror ic = s.mirror ic) ∧
      t.crcCount = s.crcCount.set (kindIndex (.single k))
        (s.crc (.single k) + BitVec.ofNat 16 ((badFlags s.rom n.toNat rx).count true)) ∧
      ((∃ p < n.toNat, groupBad s.rom (groupAt rx p) = true) → t.res = .written 0xFFFF) ∧
      ((∀ p < n.toNat, groupBad s.rom (groupAt rx p) = false) → t.res = .written 0x0000) ∧
      t = { s with bus := t.bus, chain := t.chain, rxbuf := t.rxbuf, mirrors := t.mirrors, crcCount := t.crcCount
                   res := t.res }

/-- R186, R187, R188, R190: `RDGRP` of CV, AUX or STAT completes: one read transaction for each selected group in
ascending order, with CSB released between them; each group received is in the raw mirror of its IC with its PEC flag;
the tally grows by the number of bad groups of all of them, and `RES` is their aggregate; `RXBUF` holds the last
transaction. The groups not selected keep their raw bytes and flags; nothing else of the mirrors changes but the cell
codes of CV (which `RdgrpDecodesTheCellCodes` gives), and nothing else of the block does. A kind whose limit is 1 is stored
like one with more (log 20). -/
def Obligations.RdgrpReadsEverySelectedGroup : Prop :=
  ∀ (s : State) (n : BitVec 8) (reg : BitVec 4) (m : MultiKind) (rev : Bool), goodSize n s →
    s.limValid = true → reg.toNat ≤ groupLimit m s.lim → sameFlags s n.toNat rev →
    ∃ (t : State) (rs : List (List Byte × List Byte)), exec (.rdgrp (.named (.multi m)) reg n) s = .next t ∧
      rs.length = (selected (.multi m) reg s).length ∧ (∀ r ∈ rs, r.1.length = 4 ∧ r.2.length = 8 * n.toNat) ∧
      t.bus.trace = s.bus.trace ++ (((selected (.multi m) reg s).zip rs).map fun x =>
        readEvents s.rom (s.params.cmdCode (.multi m) .rd x.1) x.2.1 x.2.2).flatten ∧
      (s.bus.csb = true → t.bus.csb = true) ∧
      (∀ r, rs.getLast? = some r → holdsBytes t.rxbuf 0 r.2) ∧
      (∀ a, 8 * n.toNat ≤ a → Memory.read t.rxbuf a = Memory.read s.rxbuf a) ∧
      (∀ (j g : Nat) (r : List Byte × List Byte), (selected (.multi m) reg s)[j]? = some g → rs[j]? = some r →
        1 ≤ g → g ≤ groupRoom m → ∀ p < n.toNat,
          lastGroup m (t.mirror (if rev then n.toNat - 1 - p else p)) g =
            (.written (groupAt r.2 p), .written (groupBad s.rom (groupAt r.2 p)))) ∧
      (∀ ic g, 1 ≤ g → g ∉ selected (.multi m) reg s → lastGroup m (t.mirror ic) g = lastGroup m (s.mirror ic) g) ∧
      (∀ ic, sameButReceived m (s.mirror ic) (t.mirror ic)) ∧
      (∀ ic, n.toNat ≤ ic → t.mirror ic = s.mirror ic) ∧
      t.crcCount = s.crcCount.set (kindIndex (.multi m))
        (s.crc (.multi m) + BitVec.ofNat 16 (rs.map fun r => (badFlags s.rom n.toNat r.2).count true).sum) ∧
      ((∃ r ∈ rs, ∃ p < n.toNat, groupBad s.rom (groupAt r.2 p) = true) → t.res = .written 0xFFFF) ∧
      ((∀ r ∈ rs, ∀ p < n.toNat, groupBad s.rom (groupAt r.2 p) = false) → t.res = .written 0x0000) ∧
      t = { s with bus := t.bus, chain := t.chain, rxbuf := t.rxbuf, mirrors := t.mirrors, crcCount := t.crcCount
                   res := t.res }

/-- R53, R186, R188, R189: after `RDGRP` of cell voltages the mirror holds each group read (R76) with its flag, and its
codes are its bytes in pairs, little-endian, whether or not its PEC matched; the groups not read, their flags and codes are
as before. (That this holds for a limit of 1 too is the model's reading of R188: log 20.) -/
def Obligations.RdgrpDecodesTheCellCodes : Prop :=
  ∀ (s t : State) (n : BitVec 8) (reg : BitVec 4) (ic g : Nat), exec (.rdgrp (.named (.multi .cv)) reg n) s = .next t →
    ic < n.toNat → 1 ≤ g → g ≤ 6 →
    (g ∈ selected (.multi .cv) reg s → ∃ r : Group, lastGroup .cv (t.mirror ic) g =
        (.written r, .written (groupBad s.rom r)) ∧
      (t.mirror ic).cv.cCodes[3 * (g - 1)]? = some (.written (r[1] ++ r[0])) ∧
      (t.mirror ic).cv.cCodes[3 * (g - 1) + 1]? = some (.written (r[3] ++ r[2])) ∧
      (t.mirror ic).cv.cCodes[3 * (g - 1) + 2]? = some (.written (r[5] ++ r[4]))) ∧
    (g ∉ selected (.multi .cv) reg s → lastGroup .cv (t.mirror ic) g = lastGroup .cv (s.mirror ic) g ∧
      ∀ i < 3, (t.mirror ic).cv.cCodes[3 * (g - 1) + i]? = (s.mirror ic).cv.cCodes[3 * (g - 1) + i]?)

/-- R186, R75, R76: where `RDGRP` stops before it reads the reverse flags, with `N` in range: a reserved kind, a group
out of range, `LIM` not set. -/
def Obligations.RdgrpStops : Prop :=
  (∀ (s : State) (n : BitVec 8) (reg code : BitVec 4), goodSize n s →
    exec (.rdgrp (.reserved code) reg n) s = .refused .reservedKind) ∧
  (∀ (s : State) (n : BitVec 8) (reg : BitVec 4) (k : SingleKind), goodSize n s → 1 < reg.toNat →
    exec (.rdgrp (.named (.single k)) reg n) s = .refused .groupRange) ∧
  (∀ (s : State) (n : BitVec 8) (reg : BitVec 4) (m : MultiKind), goodSize n s → s.limValid = false →
    exec (.rdgrp (.named (.multi m)) reg n) s = .fault .unwritten) ∧
  ∀ (s : State) (n : BitVec 8) (reg : BitVec 4) (m : MultiKind), goodSize n s → s.limValid = true →
    groupLimit m s.lim < reg.toNat → exec (.rdgrp (.named (.multi m)) reg n) s = .refused .groupRange

/-- R45: an operation with `N` ICs touches no mirror at index `N` or above: it leaves each as it is, and what it does is
the same whatever they hold. -/
def Obligations.MirrorsAtNAndAboveAreUntouched : Prop :=
  (∀ (s t : State) (i : Instr) (ic : Nat), exec i s = .next t → chainLength i ≤ ic → t.mirror ic = s.mirror ic) ∧
  ∀ (s : State) (i : Instr) (ms : Vector Mirror Config.icLimit),
    (∀ ic < chainLength i, ms[ic]? = s.mirrors[ic]?) →
    sameOutcome (fun t u => u = t.setMirrors u.mirrors ∧ ∀ ic < chainLength i, u.mirror ic = t.mirror ic)
      (exec i s) (exec i (s.setMirrors ms))

/-- R37, R41: only `RDGRP` writes PEC flags, receive mirrors and the tally, and only `PEC15`, `READ` and `RDGRP` write
`RES`. -/
def Obligations.StatusIsWrittenOnlyWhereStated : Prop :=
  ∀ (s t : State) (i : Instr), exec i s = .next t →
    ((∀ kind reg n, i ≠ .rdgrp kind reg n) → t.mirrors = s.mirrors ∧ t.crcCount = s.crcCount) ∧
    (writesRes i = false → t.res = s.res)

/-- R134: on the reference chain of R133, with both command words decoding to one register, `WRGRP` and then `RDGRP` of
a kind leave in every addressed IC's receive mirror the data of its transmit mirror, with no PEC error, for both chain
directions. `ref.reply` is what the chain answers after the frame that `WRGRP` put on the bus. -/
def Obligations.WriteThenReadRoundTrip : Prop :=
  ∀ (s : State) (n : BitVec 8) (wrReg rdReg : BitVec 4) (k : SingleKind) (rev : Bool) (d : Nat → List Byte)
    (ref : RefChain) (r : Nat) (cmdRx rest : List Byte), goodSize n s → wrReg.toNat ≤ 1 → rdReg.toNat ≤ 1 →
    sameFlags s n.toNat rev → holdsTx s k n.toNat d → ref.stores.length = n.toNat →
    lookupKey ref.dec (s.params.cmdCode (.single k) .wr 1) = some (r, .wr) →
    lookupKey ref.dec (s.params.cmdCode (.single k) .rd 1) = some (r, .rd) → cmdRx.length = 4 →
    ∃ t bytes v, exec (.wrgrp (.named (.single k)) wrReg n) s = .next t ∧
      (ref.afterEvents s.rom (t.bus.trace.drop s.bus.trace.length)).reply s.rom
        (s.params.cmdCode (.single k) .rd 1) = some bytes ∧
      exec (.rdgrp (.named (.single k)) rdReg n)
        (t.setBus { t.bus with rx := { t.bus.rx with plan := cmdRx ++ (bytes ++ rest) } }) = .next v ∧
      ∀ ic < n.toNat, ((v.mirror ic).get k).pecErr = .written false ∧
        ∃ g, ((v.mirror ic).get k).rx = .written g ∧ groupData g = d ic

/-! ## The whole machine -/

/-- R20, R23, R31, R39, R121, R193: every step keeps the invariant. -/
def Obligations.StepKeepsTheInvariant : Prop :=
  ∀ s t : State, Inv s → step s = .next t → Inv t

/-- R250: the invariant holds at reset. -/
def Obligations.ResetMeetsTheInvariant : Prop :=
  Inv State.reset

/-- R250: what reset leaves, and that `ROM` then holds `PEC_TABLE` at all times. -/
def Obligations.ResetLeavesEverythingUnwritten : Prop :=
  State.reset.bus.csb = true ∧ State.reset.seq = .idle ∧ State.reset.limValid = false ∧
  (∀ k, State.reset.crc k = Config.crcCountInit) ∧
  State.reset.req = .unwritten ∧ State.reset.argCmd = .unwritten ∧ State.reset.argLen = .unwritten ∧
  State.reset.argLim = .unwritten ∧ State.reset.res = .unwritten ∧
  (∀ a, Memory.read State.reset.buf a = none) ∧ (∀ a, Memory.read State.reset.rxbuf a = none) ∧
  (∀ ic : Nat, (State.reset.mirror ic).isospiReverse = .unwritten ∧
    (∀ k, (∀ j : Fin 6, ((State.reset.mirror ic).get k).tx[j] = .unwritten) ∧
      ((State.reset.mirror ic).get k).rx = .unwritten ∧ ((State.reset.mirror ic).get k).pecErr = .unwritten) ∧
    (∀ m g, 1 ≤ g → lastGroup m (State.reset.mirror ic) g = (.unwritten, .unwritten)) ∧
    (∀ i : Fin 18, (State.reset.mirror ic).cv.cCodes[i] = .unwritten) ∧ undecoded (State.reset.mirror ic)) ∧
  (∀ f, readRoValue (.lim f) State.reset = .fault .unwritten) ∧ State.reset.bus.trace = [] ∧
  State.reset.rom = Config.pecTable ∧
  ∀ s t : State, s.rom = Config.pecTable → step s = .next t → t.rom = Config.pecTable

/-- R121: every step appends whole CSB-low spans: no byte outside one, none left open, and `CSB` high again. -/
def Obligations.TraceGrowsByWholeSpans : Prop :=
  ∀ s t : State, step s = .next t →
    ∃ es, t.bus.trace = s.bus.trace ++ es ∧ traceScan true es = some true ∧ (s.bus.csb = true → t.bus.csb = true)

/-- R234: no operation can hang: its trace is bounded by the chain size and the number of groups, of which a request
names at most 15. -/
def Obligations.OperationTraceIsBounded : Prop :=
  ∀ (s t : State) (i : Instr), exec i s = .next t →
    t.bus.trace.length ≤ s.bus.trace.length + 15 * (6 + 8 * s.params.maxIc)

/-- R22, R23, R68: no step writes `ROM` or leaves `SEQ` other than it was. That none changes an OPEN parameter of R8 or the
number of ICs, `N_CHAIN` (R8, R40), is the model's: the parameters stand in the state and stay (logs 3 and 16), and the
chain keeps its length. -/
def Obligations.StepKeepsRomAndParameters : Prop :=
  ∀ s t : State, step s = .next t →
    t.rom = s.rom ∧ t.params = s.params ∧ t.seq = s.seq ∧ t.chain.cond.length = s.chain.cond.length

/-- R40: the block neither stores nor reads the chain's conditions: whatever they are, an operation does the same to
everything else. -/
def Obligations.ChainConditionsAreNotRead : Prop :=
  ∀ (s : State) (i : Instr) (c : Chain),
    sameOutcome (fun t u => u = t.setChain u.chain) (exec i s) (exec i (s.setChain c))

/-! ## Frames -/

/-- R41, R62: `PEC15` changes `RES` alone, and `INIT_LIMITS` the limits alone; every byte of both buffers reads as
before. -/
def Obligations.FrameOfRegisterOperations : Prop :=
  (∀ s t : State, exec .pec15 s = .next t → t = { s with res := t.res } ∧
    ∀ a, Memory.read t.buf a = Memory.read s.buf a ∧ Memory.read t.rxbuf a = Memory.read s.rxbuf a) ∧
  ∀ (s t : State) (numStat : BitVec 4), exec (.initLimits numStat) s = .next t →
    t = { s with lim := t.lim, limValid := true } ∧
    ∀ a, Memory.read t.buf a = Memory.read s.buf a ∧ Memory.read t.rxbuf a = Memory.read s.rxbuf a

/-- R123, R125, R158: `CMD`, `WRITE` and the two wakes change the bus alone (and the chain, which is the environment);
every byte of both buffers reads as before. -/
def Obligations.FrameOfSendingOperations : Prop :=
  ∀ (s t : State) (i : Instr) (n : BitVec 8), (i = .cmd ∨ i = .write n ∨ i = .wakeIdle n ∨ i = .wakeSleep n) →
    exec i s = .next t → t = { s with bus := t.bus, chain := t.chain } ∧
    ∀ a, Memory.read t.buf a = Memory.read s.buf a ∧ Memory.read t.rxbuf a = Memory.read s.rxbuf a

/-- R126, R184, R186, R258: of the bytes of memory, `READ` and `RDGRP` change `RXBUF[0 .. 8N)` only and `WRGRP` changes
`BUF[0 .. 6N)` only. `RDGRP` changes no transmit mirror, reverse flag, mirror or tally of another kind. -/
def Obligations.FrameOfStoringOperations : Prop :=
  (∀ (s t : State) (n : BitVec 8), exec (.read n) s = .next t →
    t = { s with bus := t.bus, chain := t.chain, rxbuf := t.rxbuf, res := t.res } ∧
    (∀ a, Memory.read t.buf a = Memory.read s.buf a) ∧
    ∀ a, 8 * n.toNat ≤ a → Memory.read t.rxbuf a = Memory.read s.rxbuf a) ∧
  (∀ (s t : State) (kind : KindField) (reg : BitVec 4) (n : BitVec 8), exec (.wrgrp kind reg n) s = .next t →
    t = { s with bus := t.bus, chain := t.chain, buf := t.buf } ∧
    (∀ a, Memory.read t.rxbuf a = Memory.read s.rxbuf a) ∧
    ∀ a, 6 * n.toNat ≤ a → Memory.read t.buf a = Memory.read s.buf a) ∧
  ∀ (s t : State) (kind : KindField) (reg : BitVec 4) (n : BitVec 8), exec (.rdgrp kind reg n) s = .next t →
    t = { s with bus := t.bus, chain := t.chain, rxbuf := t.rxbuf, mirrors := t.mirrors, crcCount := t.crcCount
                 res := t.res } ∧
    (∀ a, Memory.read t.buf a = Memory.read s.buf a) ∧
    (∀ a, 8 * n.toNat ≤ a → Memory.read t.rxbuf a = Memory.read s.rxbuf a) ∧
    ∀ ic, (t.mirror ic).isospiReverse = (s.mirror ic).isospiReverse ∧
      (∀ k, ((t.mirror ic).get k).tx = ((s.mirror ic).get k).tx) ∧
      (∀ k, kind ≠ .named (.single k) → (t.mirror ic).get k = (s.mirror ic).get k) ∧
      (kind ≠ .named (.multi .cv) → (t.mirror ic).cv = (s.mirror ic).cv) ∧
      (kind ≠ .named (.multi .aux) → (t.mirror ic).aux = (s.mirror ic).aux) ∧
      (kind ≠ .named (.multi .stat) → (t.mirror ic).stat = (s.mirror ic).stat) ∧
      ∀ k, kind ≠ .named k → t.crc k = s.crc k

/-! ## The host port -/

/-- R43, R65: a host write to a register that exists completes; the host then reads back the value it wrote, every other
register, the read-only ones among them, reads as before, and the bus, the chain, `SEQ`, the parameters, the accesses to
come and the value last read are as they were. A write to a mirror set at `MAX_IC` or above is refused, which is the
model's choice (log 12). -/
def Obligations.HostWriteReadsBack : Prop :=
  (∀ (w : HostWrite) (s : State), namesMirror w s → ∃ t, hostAccess (.write w) s = .next t) ∧
  (∀ (w : HostWrite) (s : State), ¬ namesMirror w s → hostAccess (.write w) s = .refused .hostWriteRO) ∧
  ∀ (w : HostWrite) (s t : State), hostAccess (.write w) s = .next t →
    readRwValue (writtenReg w) t = .next (writtenWord w) ∧
    (∀ r, r ≠ writtenReg w → readRwValue r t = readRwValue r s) ∧ (∀ r, readRoValue r t = readRoValue r s) ∧
    t.bus = s.bus ∧ t.chain = s.chain ∧ t.seq = s.seq ∧ t.params = s.params ∧ t.host = s.host ∧ t.lastRead = s.lastRead

/-- R43, R221: a host write to a register the host may only read is refused, whatever mirror set it belongs to. (That
`ROM` and the never-written fields count among these is the model's reading, log 18; for a mirror set at `MAX_IC` or above
the refusal is the model's choice, log 12.) -/
def Obligations.ReadOnlyRegistersRefuseWrites : Prop :=
  ∀ (s : State) (r : RoReg) (rest : List HostAccess), s.seq = .idle → s.host = .port (.writeRo r) :: rest →
    step s = .refused .hostWriteRO

/-- R43, R44, R62: what a host read of each register delivers, with `Fault(Unwritten)` where nothing has written it, and
that the read changes nothing. (That a narrower value is extended with zeros, a flag reads as 0 or 1, and the value is kept
in a field of the state is the model's, log 9; that a mirror set at `MAX_IC` or above faults is too, log 12.) -/
def Obligations.HostReadDeliversTheRegister : Prop :=
  ∀ s : State,
    (∀ (r : RwReg) (v : Word), readRwValue r s = .next v →
      hostAccess (.readRw r) s = .next { s with lastRead := some v }) ∧
    (∀ (r : RoReg) (v : Word), readRoValue r s = .next v →
      hostAccess (.readRo r) s = .next { s with lastRead := some v }) ∧
    (∀ (r : RwReg) (f : Fault), readRwValue r s = .fault f → hostAccess (.readRw r) s = .fault f) ∧
    (∀ (r : RoReg) (f : Fault), readRoValue r s = .fault f → hostAccess (.readRo r) s = .fault f) ∧
    readRwValue .req s = delivers s.req id ∧
    readRwValue .argCmd s = delivers s.argCmd (fun v => v.setWidth 32) ∧
    readRwValue .argLen s = delivers s.argLen (fun v => v.setWidth 32) ∧
    readRwValue .argLim s = delivers s.argLim id ∧
    (∀ i, readRwValue (.buf i) s = deliversByte s.buf i.toNat) ∧
    (∀ k, readRwValue (.crcCount k) s = .next ((s.crc k).setWidth 32)) ∧
    (∀ i, readRoValue (.rxbuf i) s = deliversByte s.rxbuf i.toNat) ∧
    readRoValue .res s = delivers s.res (fun v => v.setWidth 32) ∧
    readRoValue .limValid s = .next (if s.limValid then 1 else 0) ∧
    (∀ a, readRoValue (.rom a) s = .next (s.rom[a.toFin].setWidth 32)) ∧
    (s.limValid = false → ∀ f, readRoValue (.lim f) s = .fault .unwritten) ∧
    (s.limValid = true →
      readRoValue (.lim .cellCh) s = .next (s.lim.cellCh.setWidth 32) ∧
      readRoValue (.lim .auxCh) s = .next (s.lim.auxCh.setWidth 32) ∧
      readRoValue (.lim .statCh) s = .next (s.lim.statCh.setWidth 32) ∧
      readRoValue (.lim .numCv) s = .next (s.lim.numCv.setWidth 32) ∧
      readRoValue (.lim .numGpio) s = .next (s.lim.numGpio.setWidth 32) ∧
      readRoValue (.lim .numStat) s = .next (s.lim.numStat.setWidth 32)) ∧
    (∀ ic : Fin 32, ic.val < s.params.maxIc →
      readRwValue (.isospiReverse ic) s = delivers (s.mirror ic.val).isospiReverse (fun b => if b then 1 else 0) ∧
      (∀ k j, readRwValue (.tx ic k j) s = delivers ((s.mirror ic.val).get k).tx[j] (fun v => v.setWidth 32)) ∧
      (∀ k j, readRoValue (.rx ic k j) s = delivers ((s.mirror ic.val).get k).rx (fun v => v[j].setWidth 32)) ∧
      (∀ k, readRoValue (.pecErr ic k) s =
        delivers ((s.mirror ic.val).get k).pecErr (fun b => if b then 1 else 0)) ∧
      (∀ g j, readRoValue (.cvRaw ic g j) s = delivers (s.mirror ic.val).cv.raw[g] (fun v => v[j].setWidth 32)) ∧
      (∀ g, readRoValue (.cvPecErr ic g) s = delivers (s.mirror ic.val).cv.pecErr[g] (fun b => if b then 1 else 0)) ∧
      (∀ i, readRoValue (.cCode ic i) s = delivers (s.mirror ic.val).cv.cCodes[i] (fun v => v.setWidth 32)) ∧
      (∀ g j, readRoValue (.auxRaw ic g j) s = delivers (s.mirror ic.val).aux.raw[g] (fun v => v[j].setWidth 32)) ∧
      (∀ g, readRoValue (.auxPecErr ic g) s =
        delivers (s.mirror ic.val).aux.pecErr[g] (fun b => if b then 1 else 0)) ∧
      (∀ i, readRoValue (.aCode ic i) s = delivers (s.mirror ic.val).aux.aCodes[i] (fun v => v.setWidth 32)) ∧
      (∀ g j, readRoValue (.statRaw ic g j) s = delivers (s.mirror ic.val).stat.raw[g] (fun v => v[j].setWidth 32)) ∧
      (∀ g, readRoValue (.statPecErr ic g) s =
        delivers (s.mirror ic.val).stat.pecErr[g] (fun b => if b then 1 else 0)) ∧
      (∀ i, readRoValue (.statCode ic i) s = delivers (s.mirror ic.val).stat.statCodes[i] (fun v => v.setWidth 32)) ∧
      (∀ i, readRoValue (.statFlags ic i) s = delivers (s.mirror ic.val).stat.flags[i] (fun v => v.setWidth 32)) ∧
      readRoValue (.muxFail ic) s = delivers (s.mirror ic.val).stat.muxFail (fun b => if b then 1 else 0) ∧
      readRoValue (.thsd ic) s = delivers (s.mirror ic.val).stat.thsd (fun b => if b then 1 else 0)) ∧
    (∀ (r : RwReg) (ic : Fin 32), mirrorSetOf (.rw r) = some ic → s.params.maxIc ≤ ic.val →
      readRwValue r s = .fault .unwritten) ∧
    ∀ (r : RoReg) (ic : Fin 32), mirrorSetOf (.ro r) = some ic → s.params.maxIc ≤ ic.val →
      readRoValue r s = .fault .unwritten

/-- R24: after a request has run, reading `REQ` gives the word last written. -/
def Obligations.RequestWordReadsBack : Prop :=
  ∀ (s t : State) (w : Word) (rest : List HostAccess), s.host = .request w :: rest → step s = .next t →
    readRwValue .req t = .next w

/-- R42, R44: after reset a host read of any register faults, but for the tally, `LIM_VALID` and `ROM`. (For a mirror set at
`MAX_IC` or above the fault is the model's choice, log 12.) -/
def Obligations.UnwrittenRegistersFaultAfterReset : Prop :=
  (∀ r : RwReg, (∀ k, r ≠ .crcCount k) → readRwValue r State.reset = .fault .unwritten) ∧
  ∀ r : RoReg, r ≠ .limValid → (∀ a, r ≠ .rom a) → readRoValue r State.reset = .fault .unwritten

/-- R193: in every state that meets the invariant, the fields no operation writes fault when the host reads them. (For a
mirror set at `MAX_IC` or above the fault is the model's choice, log 12.) -/
def Obligations.UndecodedFieldsAlwaysFault : Prop :=
  ∀ (s : State) (ic : Fin 32), Inv s →
    (∀ i, readRoValue (.aCode ic i) s = .fault .unwritten) ∧ (∀ i, readRoValue (.statCode ic i) s = .fault .unwritten) ∧
    (∀ i, readRoValue (.statFlags ic i) s = .fault .unwritten) ∧ readRoValue (.muxFail ic) s = .fault .unwritten ∧
    readRoValue (.thsd ic) s = .fault .unwritten
end

