-- ==== Sys2Proof/Laws/State.lean ====
section
/-! SUPPORT. Laws/State: what each update of the state leaves in each field, true by computation. -/

namespace Sys2Proof.Machine

section
variable (s : State) (w : Word)
@[simp] theorem State.setReq_rom : (s.setReq w).rom = s.rom := rfl
@[simp] theorem State.setReq_req : (s.setReq w).req = .written w := rfl
@[simp] theorem State.setReq_argCmd : (s.setReq w).argCmd = s.argCmd := rfl
@[simp] theorem State.setReq_argLen : (s.setReq w).argLen = s.argLen := rfl
@[simp] theorem State.setReq_argLim : (s.setReq w).argLim = s.argLim := rfl
@[simp] theorem State.setReq_buf : (s.setReq w).buf = s.buf := rfl
@[simp] theorem State.setReq_rxbuf : (s.setReq w).rxbuf = s.rxbuf := rfl
@[simp] theorem State.setReq_res : (s.setReq w).res = s.res := rfl
@[simp] theorem State.setReq_lim : (s.setReq w).lim = s.lim := rfl
@[simp] theorem State.setReq_limValid : (s.setReq w).limValid = s.limValid := rfl
@[simp] theorem State.setReq_mirrors : (s.setReq w).mirrors = s.mirrors := rfl
@[simp] theorem State.setReq_crcCount : (s.setReq w).crcCount = s.crcCount := rfl
@[simp] theorem State.setReq_seq : (s.setReq w).seq = s.seq := rfl
@[simp] theorem State.setReq_bus : (s.setReq w).bus = s.bus := rfl
@[simp] theorem State.setReq_chain : (s.setReq w).chain = s.chain := rfl
@[simp] theorem State.setReq_params : (s.setReq w).params = s.params := rfl
@[simp] theorem State.setReq_host : (s.setReq w).host = s.host := rfl
@[simp] theorem State.setReq_lastRead : (s.setReq w).lastRead = s.lastRead := rfl
end

section
variable (s : State) (v : Half)
@[simp] theorem State.setArgCmd_rom : (s.setArgCmd v).rom = s.rom := rfl
@[simp] theorem State.setArgCmd_req : (s.setArgCmd v).req = s.req := rfl
@[simp] theorem State.setArgCmd_argCmd : (s.setArgCmd v).argCmd = .written v := rfl
@[simp] theorem State.setArgCmd_argLen : (s.setArgCmd v).argLen = s.argLen := rfl
@[simp] theorem State.setArgCmd_argLim : (s.setArgCmd v).argLim = s.argLim := rfl
@[simp] theorem State.setArgCmd_buf : (s.setArgCmd v).buf = s.buf := rfl
@[simp] theorem State.setArgCmd_rxbuf : (s.setArgCmd v).rxbuf = s.rxbuf := rfl
@[simp] theorem State.setArgCmd_res : (s.setArgCmd v).res = s.res := rfl
@[simp] theorem State.setArgCmd_lim : (s.setArgCmd v).lim = s.lim := rfl
@[simp] theorem State.setArgCmd_limValid : (s.setArgCmd v).limValid = s.limValid := rfl
@[simp] theorem State.setArgCmd_mirrors : (s.setArgCmd v).mirrors = s.mirrors := rfl
@[simp] theorem State.setArgCmd_crcCount : (s.setArgCmd v).crcCount = s.crcCount := rfl
@[simp] theorem State.setArgCmd_seq : (s.setArgCmd v).seq = s.seq := rfl
@[simp] theorem State.setArgCmd_bus : (s.setArgCmd v).bus = s.bus := rfl
@[simp] theorem State.setArgCmd_chain : (s.setArgCmd v).chain = s.chain := rfl
@[simp] theorem State.setArgCmd_params : (s.setArgCmd v).params = s.params := rfl
@[simp] theorem State.setArgCmd_host : (s.setArgCmd v).host = s.host := rfl
@[simp] theorem State.setArgCmd_lastRead : (s.setArgCmd v).lastRead = s.lastRead := rfl
end

section
variable (s : State) (v : Byte)
@[simp] theorem State.setArgLen_rom : (s.setArgLen v).rom = s.rom := rfl
@[simp] theorem State.setArgLen_req : (s.setArgLen v).req = s.req := rfl
@[simp] theorem State.setArgLen_argCmd : (s.setArgLen v).argCmd = s.argCmd := rfl
@[simp] theorem State.setArgLen_argLen : (s.setArgLen v).argLen = .written v := rfl
@[simp] theorem State.setArgLen_argLim : (s.setArgLen v).argLim = s.argLim := rfl
@[simp] theorem State.setArgLen_buf : (s.setArgLen v).buf = s.buf := rfl
@[simp] theorem State.setArgLen_rxbuf : (s.setArgLen v).rxbuf = s.rxbuf := rfl
@[simp] theorem State.setArgLen_res : (s.setArgLen v).res = s.res := rfl
@[simp] theorem State.setArgLen_lim : (s.setArgLen v).lim = s.lim := rfl
@[simp] theorem State.setArgLen_limValid : (s.setArgLen v).limValid = s.limValid := rfl
@[simp] theorem State.setArgLen_mirrors : (s.setArgLen v).mirrors = s.mirrors := rfl
@[simp] theorem State.setArgLen_crcCount : (s.setArgLen v).crcCount = s.crcCount := rfl
@[simp] theorem State.setArgLen_seq : (s.setArgLen v).seq = s.seq := rfl
@[simp] theorem State.setArgLen_bus : (s.setArgLen v).bus = s.bus := rfl
@[simp] theorem State.setArgLen_chain : (s.setArgLen v).chain = s.chain := rfl
@[simp] theorem State.setArgLen_params : (s.setArgLen v).params = s.params := rfl
@[simp] theorem State.setArgLen_host : (s.setArgLen v).host = s.host := rfl
@[simp] theorem State.setArgLen_lastRead : (s.setArgLen v).lastRead = s.lastRead := rfl
end

section
variable (s : State) (v : Word)
@[simp] theorem State.setArgLim_rom : (s.setArgLim v).rom = s.rom := rfl
@[simp] theorem State.setArgLim_req : (s.setArgLim v).req = s.req := rfl
@[simp] theorem State.setArgLim_argCmd : (s.setArgLim v).argCmd = s.argCmd := rfl
@[simp] theorem State.setArgLim_argLen : (s.setArgLim v).argLen = s.argLen := rfl
@[simp] theorem State.setArgLim_argLim : (s.setArgLim v).argLim = .written v := rfl
@[simp] theorem State.setArgLim_buf : (s.setArgLim v).buf = s.buf := rfl
@[simp] theorem State.setArgLim_rxbuf : (s.setArgLim v).rxbuf = s.rxbuf := rfl
@[simp] theorem State.setArgLim_res : (s.setArgLim v).res = s.res := rfl
@[simp] theorem State.setArgLim_lim : (s.setArgLim v).lim = s.lim := rfl
@[simp] theorem State.setArgLim_limValid : (s.setArgLim v).limValid = s.limValid := rfl
@[simp] theorem State.setArgLim_mirrors : (s.setArgLim v).mirrors = s.mirrors := rfl
@[simp] theorem State.setArgLim_crcCount : (s.setArgLim v).crcCount = s.crcCount := rfl
@[simp] theorem State.setArgLim_seq : (s.setArgLim v).seq = s.seq := rfl
@[simp] theorem State.setArgLim_bus : (s.setArgLim v).bus = s.bus := rfl
@[simp] theorem State.setArgLim_chain : (s.setArgLim v).chain = s.chain := rfl
@[simp] theorem State.setArgLim_params : (s.setArgLim v).params = s.params := rfl
@[simp] theorem State.setArgLim_host : (s.setArgLim v).host = s.host := rfl
@[simp] theorem State.setArgLim_lastRead : (s.setArgLim v).lastRead = s.lastRead := rfl
end

section
variable (s : State) (m : Memory)
@[simp] theorem State.setBuf_rom : (s.setBuf m).rom = s.rom := rfl
@[simp] theorem State.setBuf_req : (s.setBuf m).req = s.req := rfl
@[simp] theorem State.setBuf_argCmd : (s.setBuf m).argCmd = s.argCmd := rfl
@[simp] theorem State.setBuf_argLen : (s.setBuf m).argLen = s.argLen := rfl
@[simp] theorem State.setBuf_argLim : (s.setBuf m).argLim = s.argLim := rfl
@[simp] theorem State.setBuf_buf : (s.setBuf m).buf = m := rfl
@[simp] theorem State.setBuf_rxbuf : (s.setBuf m).rxbuf = s.rxbuf := rfl
@[simp] theorem State.setBuf_res : (s.setBuf m).res = s.res := rfl
@[simp] theorem State.setBuf_lim : (s.setBuf m).lim = s.lim := rfl
@[simp] theorem State.setBuf_limValid : (s.setBuf m).limValid = s.limValid := rfl
@[simp] theorem State.setBuf_mirrors : (s.setBuf m).mirrors = s.mirrors := rfl
@[simp] theorem State.setBuf_crcCount : (s.setBuf m).crcCount = s.crcCount := rfl
@[simp] theorem State.setBuf_seq : (s.setBuf m).seq = s.seq := rfl
@[simp] theorem State.setBuf_bus : (s.setBuf m).bus = s.bus := rfl
@[simp] theorem State.setBuf_chain : (s.setBuf m).chain = s.chain := rfl
@[simp] theorem State.setBuf_params : (s.setBuf m).params = s.params := rfl
@[simp] theorem State.setBuf_host : (s.setBuf m).host = s.host := rfl
@[simp] theorem State.setBuf_lastRead : (s.setBuf m).lastRead = s.lastRead := rfl
end

section
variable (s : State) (m : Memory)
@[simp] theorem State.setRxbuf_rom : (s.setRxbuf m).rom = s.rom := rfl
@[simp] theorem State.setRxbuf_req : (s.setRxbuf m).req = s.req := rfl
@[simp] theorem State.setRxbuf_argCmd : (s.setRxbuf m).argCmd = s.argCmd := rfl
@[simp] theorem State.setRxbuf_argLen : (s.setRxbuf m).argLen = s.argLen := rfl
@[simp] theorem State.setRxbuf_argLim : (s.setRxbuf m).argLim = s.argLim := rfl
@[simp] theorem State.setRxbuf_buf : (s.setRxbuf m).buf = s.buf := rfl
@[simp] theorem State.setRxbuf_rxbuf : (s.setRxbuf m).rxbuf = m := rfl
@[simp] theorem State.setRxbuf_res : (s.setRxbuf m).res = s.res := rfl
@[simp] theorem State.setRxbuf_lim : (s.setRxbuf m).lim = s.lim := rfl
@[simp] theorem State.setRxbuf_limValid : (s.setRxbuf m).limValid = s.limValid := rfl
@[simp] theorem State.setRxbuf_mirrors : (s.setRxbuf m).mirrors = s.mirrors := rfl
@[simp] theorem State.setRxbuf_crcCount : (s.setRxbuf m).crcCount = s.crcCount := rfl
@[simp] theorem State.setRxbuf_seq : (s.setRxbuf m).seq = s.seq := rfl
@[simp] theorem State.setRxbuf_bus : (s.setRxbuf m).bus = s.bus := rfl
@[simp] theorem State.setRxbuf_chain : (s.setRxbuf m).chain = s.chain := rfl
@[simp] theorem State.setRxbuf_params : (s.setRxbuf m).params = s.params := rfl
@[simp] theorem State.setRxbuf_host : (s.setRxbuf m).host = s.host := rfl
@[simp] theorem State.setRxbuf_lastRead : (s.setRxbuf m).lastRead = s.lastRead := rfl
end

section
variable (s : State) (v : Half)
@[simp] theorem State.setRes_rom : (s.setRes v).rom = s.rom := rfl
@[simp] theorem State.setRes_req : (s.setRes v).req = s.req := rfl
@[simp] theorem State.setRes_argCmd : (s.setRes v).argCmd = s.argCmd := rfl
@[simp] theorem State.setRes_argLen : (s.setRes v).argLen = s.argLen := rfl
@[simp] theorem State.setRes_argLim : (s.setRes v).argLim = s.argLim := rfl
@[simp] theorem State.setRes_buf : (s.setRes v).buf = s.buf := rfl
@[simp] theorem State.setRes_rxbuf : (s.setRes v).rxbuf = s.rxbuf := rfl
@[simp] theorem State.setRes_res : (s.setRes v).res = .written v := rfl
@[simp] theorem State.setRes_lim : (s.setRes v).lim = s.lim := rfl
@[simp] theorem State.setRes_limValid : (s.setRes v).limValid = s.limValid := rfl
@[simp] theorem State.setRes_mirrors : (s.setRes v).mirrors = s.mirrors := rfl
@[simp] theorem State.setRes_crcCount : (s.setRes v).crcCount = s.crcCount := rfl
@[simp] theorem State.setRes_seq : (s.setRes v).seq = s.seq := rfl
@[simp] theorem State.setRes_bus : (s.setRes v).bus = s.bus := rfl
@[simp] theorem State.setRes_chain : (s.setRes v).chain = s.chain := rfl
@[simp] theorem State.setRes_params : (s.setRes v).params = s.params := rfl
@[simp] theorem State.setRes_host : (s.setRes v).host = s.host := rfl
@[simp] theorem State.setRes_lastRead : (s.setRes v).lastRead = s.lastRead := rfl
end

section
variable (s : State) (l : Limits)
@[simp] theorem State.setLimits_rom : (s.setLimits l).rom = s.rom := rfl
@[simp] theorem State.setLimits_req : (s.setLimits l).req = s.req := rfl
@[simp] theorem State.setLimits_argCmd : (s.setLimits l).argCmd = s.argCmd := rfl
@[simp] theorem State.setLimits_argLen : (s.setLimits l).argLen = s.argLen := rfl
@[simp] theorem State.setLimits_argLim : (s.setLimits l).argLim = s.argLim := rfl
@[simp] theorem State.setLimits_buf : (s.setLimits l).buf = s.buf := rfl
@[simp] theorem State.setLimits_rxbuf : (s.setLimits l).rxbuf = s.rxbuf := rfl
@[simp] theorem State.setLimits_res : (s.setLimits l).res = s.res := rfl
@[simp] theorem State.setLimits_lim : (s.setLimits l).lim = l := rfl
@[simp] theorem State.setLimits_limValid : (s.setLimits l).limValid = true := rfl
@[simp] theorem State.setLimits_mirrors : (s.setLimits l).mirrors = s.mirrors := rfl
@[simp] theorem State.setLimits_crcCount : (s.setLimits l).crcCount = s.crcCount := rfl
@[simp] theorem State.setLimits_seq : (s.setLimits l).seq = s.seq := rfl
@[simp] theorem State.setLimits_bus : (s.setLimits l).bus = s.bus := rfl
@[simp] theorem State.setLimits_chain : (s.setLimits l).chain = s.chain := rfl
@[simp] theorem State.setLimits_params : (s.setLimits l).params = s.params := rfl
@[simp] theorem State.setLimits_host : (s.setLimits l).host = s.host := rfl
@[simp] theorem State.setLimits_lastRead : (s.setLimits l).lastRead = s.lastRead := rfl
end

section
variable (s : State) (m : Vector Mirror Config.icLimit)
@[simp] theorem State.setMirrors_rom : (s.setMirrors m).rom = s.rom := rfl
@[simp] theorem State.setMirrors_req : (s.setMirrors m).req = s.req := rfl
@[simp] theorem State.setMirrors_argCmd : (s.setMirrors m).argCmd = s.argCmd := rfl
@[simp] theorem State.setMirrors_argLen : (s.setMirrors m).argLen = s.argLen := rfl
@[simp] theorem State.setMirrors_argLim : (s.setMirrors m).argLim = s.argLim := rfl
@[simp] theorem State.setMirrors_buf : (s.setMirrors m).buf = s.buf := rfl
@[simp] theorem State.setMirrors_rxbuf : (s.setMirrors m).rxbuf = s.rxbuf := rfl
@[simp] theorem State.setMirrors_res : (s.setMirrors m).res = s.res := rfl
@[simp] theorem State.setMirrors_lim : (s.setMirrors m).lim = s.lim := rfl
@[simp] theorem State.setMirrors_limValid : (s.setMirrors m).limValid = s.limValid := rfl
@[simp] theorem State.setMirrors_mirrors : (s.setMirrors m).mirrors = m := rfl
@[simp] theorem State.setMirrors_crcCount : (s.setMirrors m).crcCount = s.crcCount := rfl
@[simp] theorem State.setMirrors_seq : (s.setMirrors m).seq = s.seq := rfl
@[simp] theorem State.setMirrors_bus : (s.setMirrors m).bus = s.bus := rfl
@[simp] theorem State.setMirrors_chain : (s.setMirrors m).chain = s.chain := rfl
@[simp] theorem State.setMirrors_params : (s.setMirrors m).params = s.params := rfl
@[simp] theorem State.setMirrors_host : (s.setMirrors m).host = s.host := rfl
@[simp] theorem State.setMirrors_lastRead : (s.setMirrors m).lastRead = s.lastRead := rfl
end

section
variable (s : State) (v : Vector Half 10)
@[simp] theorem State.setCrcCount_rom : (s.setCrcCount v).rom = s.rom := rfl
@[simp] theorem State.setCrcCount_req : (s.setCrcCount v).req = s.req := rfl
@[simp] theorem State.setCrcCount_argCmd : (s.setCrcCount v).argCmd = s.argCmd := rfl
@[simp] theorem State.setCrcCount_argLen : (s.setCrcCount v).argLen = s.argLen := rfl
@[simp] theorem State.setCrcCount_argLim : (s.setCrcCount v).argLim = s.argLim := rfl
@[simp] theorem State.setCrcCount_buf : (s.setCrcCount v).buf = s.buf := rfl
@[simp] theorem State.setCrcCount_rxbuf : (s.setCrcCount v).rxbuf = s.rxbuf := rfl
@[simp] theorem State.setCrcCount_res : (s.setCrcCount v).res = s.res := rfl
@[simp] theorem State.setCrcCount_lim : (s.setCrcCount v).lim = s.lim := rfl
@[simp] theorem State.setCrcCount_limValid : (s.setCrcCount v).limValid = s.limValid := rfl
@[simp] theorem State.setCrcCount_mirrors : (s.setCrcCount v).mirrors = s.mirrors := rfl
@[simp] theorem State.setCrcCount_crcCount : (s.setCrcCount v).crcCount = v := rfl
@[simp] theorem State.setCrcCount_seq : (s.setCrcCount v).seq = s.seq := rfl
@[simp] theorem State.setCrcCount_bus : (s.setCrcCount v).bus = s.bus := rfl
@[simp] theorem State.setCrcCount_chain : (s.setCrcCount v).chain = s.chain := rfl
@[simp] theorem State.setCrcCount_params : (s.setCrcCount v).params = s.params := rfl
@[simp] theorem State.setCrcCount_host : (s.setCrcCount v).host = s.host := rfl
@[simp] theorem State.setCrcCount_lastRead : (s.setCrcCount v).lastRead = s.lastRead := rfl
end

section
variable (s : State) (b : Bus)
@[simp] theorem State.setBus_rom : (s.setBus b).rom = s.rom := rfl
@[simp] theorem State.setBus_req : (s.setBus b).req = s.req := rfl
@[simp] theorem State.setBus_argCmd : (s.setBus b).argCmd = s.argCmd := rfl
@[simp] theorem State.setBus_argLen : (s.setBus b).argLen = s.argLen := rfl
@[simp] theorem State.setBus_argLim : (s.setBus b).argLim = s.argLim := rfl
@[simp] theorem State.setBus_buf : (s.setBus b).buf = s.buf := rfl
@[simp] theorem State.setBus_rxbuf : (s.setBus b).rxbuf = s.rxbuf := rfl
@[simp] theorem State.setBus_res : (s.setBus b).res = s.res := rfl
@[simp] theorem State.setBus_lim : (s.setBus b).lim = s.lim := rfl
@[simp] theorem State.setBus_limValid : (s.setBus b).limValid = s.limValid := rfl
@[simp] theorem State.setBus_mirrors : (s.setBus b).mirrors = s.mirrors := rfl
@[simp] theorem State.setBus_crcCount : (s.setBus b).crcCount = s.crcCount := rfl
@[simp] theorem State.setBus_seq : (s.setBus b).seq = s.seq := rfl
@[simp] theorem State.setBus_bus : (s.setBus b).bus = b := rfl
@[simp] theorem State.setBus_chain : (s.setBus b).chain = s.chain := rfl
@[simp] theorem State.setBus_params : (s.setBus b).params = s.params := rfl
@[simp] theorem State.setBus_host : (s.setBus b).host = s.host := rfl
@[simp] theorem State.setBus_lastRead : (s.setBus b).lastRead = s.lastRead := rfl
end

section
variable (s : State) (x : Chain)
@[simp] theorem State.setChain_rom : (s.setChain x).rom = s.rom := rfl
@[simp] theorem State.setChain_req : (s.setChain x).req = s.req := rfl
@[simp] theorem State.setChain_argCmd : (s.setChain x).argCmd = s.argCmd := rfl
@[simp] theorem State.setChain_argLen : (s.setChain x).argLen = s.argLen := rfl
@[simp] theorem State.setChain_argLim : (s.setChain x).argLim = s.argLim := rfl
@[simp] theorem State.setChain_buf : (s.setChain x).buf = s.buf := rfl
@[simp] theorem State.setChain_rxbuf : (s.setChain x).rxbuf = s.rxbuf := rfl
@[simp] theorem State.setChain_res : (s.setChain x).res = s.res := rfl
@[simp] theorem State.setChain_lim : (s.setChain x).lim = s.lim := rfl
@[simp] theorem State.setChain_limValid : (s.setChain x).limValid = s.limValid := rfl
@[simp] theorem State.setChain_mirrors : (s.setChain x).mirrors = s.mirrors := rfl
@[simp] theorem State.setChain_crcCount : (s.setChain x).crcCount = s.crcCount := rfl
@[simp] theorem State.setChain_seq : (s.setChain x).seq = s.seq := rfl
@[simp] theorem State.setChain_bus : (s.setChain x).bus = s.bus := rfl
@[simp] theorem State.setChain_chain : (s.setChain x).chain = x := rfl
@[simp] theorem State.setChain_params : (s.setChain x).params = s.params := rfl
@[simp] theorem State.setChain_host : (s.setChain x).host = s.host := rfl
@[simp] theorem State.setChain_lastRead : (s.setChain x).lastRead = s.lastRead := rfl
end

section
variable (s : State) (h : List HostAccess)
@[simp] theorem State.setHost_rom : (s.setHost h).rom = s.rom := rfl
@[simp] theorem State.setHost_req : (s.setHost h).req = s.req := rfl
@[simp] theorem State.setHost_argCmd : (s.setHost h).argCmd = s.argCmd := rfl
@[simp] theorem State.setHost_argLen : (s.setHost h).argLen = s.argLen := rfl
@[simp] theorem State.setHost_argLim : (s.setHost h).argLim = s.argLim := rfl
@[simp] theorem State.setHost_buf : (s.setHost h).buf = s.buf := rfl
@[simp] theorem State.setHost_rxbuf : (s.setHost h).rxbuf = s.rxbuf := rfl
@[simp] theorem State.setHost_res : (s.setHost h).res = s.res := rfl
@[simp] theorem State.setHost_lim : (s.setHost h).lim = s.lim := rfl
@[simp] theorem State.setHost_limValid : (s.setHost h).limValid = s.limValid := rfl
@[simp] theorem State.setHost_mirrors : (s.setHost h).mirrors = s.mirrors := rfl
@[simp] theorem State.setHost_crcCount : (s.setHost h).crcCount = s.crcCount := rfl
@[simp] theorem State.setHost_seq : (s.setHost h).seq = s.seq := rfl
@[simp] theorem State.setHost_bus : (s.setHost h).bus = s.bus := rfl
@[simp] theorem State.setHost_chain : (s.setHost h).chain = s.chain := rfl
@[simp] theorem State.setHost_params : (s.setHost h).params = s.params := rfl
@[simp] theorem State.setHost_host : (s.setHost h).host = h := rfl
@[simp] theorem State.setHost_lastRead : (s.setHost h).lastRead = s.lastRead := rfl
end

section
variable (s : State) (v : Word)
@[simp] theorem State.setLastRead_rom : (s.setLastRead v).rom = s.rom := rfl
@[simp] theorem State.setLastRead_req : (s.setLastRead v).req = s.req := rfl
@[simp] theorem State.setLastRead_argCmd : (s.setLastRead v).argCmd = s.argCmd := rfl
@[simp] theorem State.setLastRead_argLen : (s.setLastRead v).argLen = s.argLen := rfl
@[simp] theorem State.setLastRead_argLim : (s.setLastRead v).argLim = s.argLim := rfl
@[simp] theorem State.setLastRead_buf : (s.setLastRead v).buf = s.buf := rfl
@[simp] theorem State.setLastRead_rxbuf : (s.setLastRead v).rxbuf = s.rxbuf := rfl
@[simp] theorem State.setLastRead_res : (s.setLastRead v).res = s.res := rfl
@[simp] theorem State.setLastRead_lim : (s.setLastRead v).lim = s.lim := rfl
@[simp] theorem State.setLastRead_limValid : (s.setLastRead v).limValid = s.limValid := rfl
@[simp] theorem State.setLastRead_mirrors : (s.setLastRead v).mirrors = s.mirrors := rfl
@[simp] theorem State.setLastRead_crcCount : (s.setLastRead v).crcCount = s.crcCount := rfl
@[simp] theorem State.setLastRead_seq : (s.setLastRead v).seq = s.seq := rfl
@[simp] theorem State.setLastRead_bus : (s.setLastRead v).bus = s.bus := rfl
@[simp] theorem State.setLastRead_chain : (s.setLastRead v).chain = s.chain := rfl
@[simp] theorem State.setLastRead_params : (s.setLastRead v).params = s.params := rfl
@[simp] theorem State.setLastRead_host : (s.setLastRead v).host = s.host := rfl
@[simp] theorem State.setLastRead_lastRead : (s.setLastRead v).lastRead = some v := rfl
end

section
variable (s : State)
@[simp] theorem State.timeouts_rom : s.timeouts.rom = s.rom := rfl
@[simp] theorem State.timeouts_req : s.timeouts.req = s.req := rfl
@[simp] theorem State.timeouts_argCmd : s.timeouts.argCmd = s.argCmd := rfl
@[simp] theorem State.timeouts_argLen : s.timeouts.argLen = s.argLen := rfl
@[simp] theorem State.timeouts_argLim : s.timeouts.argLim = s.argLim := rfl
@[simp] theorem State.timeouts_buf : s.timeouts.buf = s.buf := rfl
@[simp] theorem State.timeouts_rxbuf : s.timeouts.rxbuf = s.rxbuf := rfl
@[simp] theorem State.timeouts_res : s.timeouts.res = s.res := rfl
@[simp] theorem State.timeouts_lim : s.timeouts.lim = s.lim := rfl
@[simp] theorem State.timeouts_limValid : s.timeouts.limValid = s.limValid := rfl
@[simp] theorem State.timeouts_mirrors : s.timeouts.mirrors = s.mirrors := rfl
@[simp] theorem State.timeouts_crcCount : s.timeouts.crcCount = s.crcCount := rfl
@[simp] theorem State.timeouts_seq : s.timeouts.seq = s.seq := rfl
@[simp] theorem State.timeouts_bus : s.timeouts.bus = s.bus := rfl
@[simp] theorem State.timeouts_chain : s.timeouts.chain = s.chain.timeouts := rfl
@[simp] theorem State.timeouts_params : s.timeouts.params = s.params := rfl
@[simp] theorem State.timeouts_host : s.timeouts.host = s.host := rfl
@[simp] theorem State.timeouts_lastRead : s.timeouts.lastRead = s.lastRead := rfl
end

/-- The mirror set of an IC depends on the mirrors alone. -/
theorem State.mirror_setMirrors (s : State) (m : Vector Mirror Config.icLimit) (ic : Nat) :
    (s.setMirrors m).mirror ic = (m[ic]?).getD Mirror.reset := rfl

end Sys2Proof.Machine
end

