-- ==== Sys2Proof/Laws/Results.lean ====
section
/-! SUPPORT. Laws/Results: how reads, checks and operations go on or stop. -/

namespace Sys2Proof.Machine

section
variable {α β : Type}

@[simp] theorem andThen_next (a : α) (f : α → Host.Outcome β Fault Refusal) : andThen (.next a) f = f a := rfl
@[simp] theorem andThen_fault (r : Fault) (f : α → Host.Outcome β Fault Refusal) : andThen (.fault r) f = .fault r := rfl
@[simp] theorem andThen_refused (r : Refusal) (f : α → Host.Outcome β Fault Refusal) :
    andThen (.refused r) f = .refused r := rfl

/-- Going on answers a value exactly when both parts do. -/
theorem andThen_eq_next {x : Host.Outcome α Fault Refusal} {f : α → Host.Outcome β Fault Refusal} {b : β} :
    andThen x f = .next b ↔ ∃ a, x = .next a ∧ f a = .next b := by
  cases x <;> simp [andThen]

@[simp] theorem require_true (r : Refusal) : require true r = .next () := rfl
@[simp] theorem require_false (r : Refusal) : require false r = .refused r := rfl

/-- A check goes on exactly when it holds. -/
theorem require_eq_next {ok : Bool} {r : Refusal} {u : Unit} : require ok r = .next u ↔ ok = true := by
  cases ok <;> simp [require]

@[simp] theorem Slot.read_written (v : α) : Slot.read (.written v) = .next v := rfl
@[simp] theorem Slot.read_unwritten : Slot.read (.unwritten : Slot α) = .fault .unwritten := rfl

/-- A slot answers a value exactly when that value was written. -/
theorem Slot.read_eq_next {x : Slot α} {v : α} : Slot.read x = .next v ↔ x = .written v := by
  cases x <;> simp [Slot.read]

/-- A slot faults exactly when it is unwritten. -/
theorem Slot.read_eq_fault {x : Slot α} {r : Fault} :
    Slot.read x = .fault r ↔ x = .unwritten ∧ r = .unwritten := by
  cases x <;> simp [Slot.read, eq_comm]

/-- A list of reads answers exactly the values its reads answer. -/
theorem readAll_eq_next {xs : List (Host.Outcome α Fault Refusal)} {as : List α} :
    readAll xs = .next as ↔ xs = as.map Host.Outcome.next := by
  induction xs generalizing as with
  | nil => cases as <;> simp [readAll]
  | cons x xs ih =>
    cases as with
    | nil => simp [readAll, andThen_eq_next]
    | cons a as => simp [readAll, andThen_eq_next, ih]

/-- Where every read is a value or the unwritten fault, and one of them is the fault, the list of them faults so. -/
theorem readAll_eq_fault {xs : List (Host.Outcome α Fault Refusal)}
    (kinds : ∀ x ∈ xs, (∃ a, x = .next a) ∨ x = .fault .unwritten) (one : Host.Outcome.fault .unwritten ∈ xs) :
    readAll xs = .fault .unwritten := by
  induction xs with
  | nil => cases one
  | cons x xs ih =>
    rcases kinds x List.mem_cons_self with ⟨a, rfl⟩ | rfl
    · have rest : readAll xs = .fault .unwritten :=
        ih (fun y hy => kinds y (List.mem_cons_of_mem _ hy)) (by simpa using one)
      simp [readAll, rest]
    · rfl

end

end Sys2Proof.Machine
end

