-- ==== Sys2Proof/Laws/Memory.lean ====
section
/-! SUPPORT. Laws/Memory: byte stores, the read after a write and the canonical form. -/

namespace Sys2Proof.Machine

@[simp] theorem Memory.read_nil (a : Nat) : Memory.read [] a = none := rfl

/-- A read after a write: the byte written at its address, and the byte before at every other, in any store whose
addresses rise. -/
theorem Memory.read_write (m : Memory) (a i : Nat) (b : Byte) :
    Memory.read (Memory.write m a b) i = if a = i then some b else Memory.read m i := by
  induction m with
  | nil => simp [Memory.write, Memory.read]
  | cons c m ih =>
    unfold Memory.write
    split
    · simp [Memory.read]
    · split
      · subst a
        by_cases h : c.1 = i <;> simp [Memory.read, h]
      · by_cases h : c.1 = i
        · have ne : ¬ a = i := by omega
          simp [Memory.read, h, ne]
        · simp [Memory.read, h, ih]

/-- A read after a write of several bytes. -/
theorem Memory.read_writeBytes (m : Memory) (a i : Nat) (bs : List Byte) :
    Memory.read (Memory.writeBytes m a bs) i =
      if a ≤ i ∧ i < a + bs.length then bs[i - a]? else Memory.read m i := by
  induction bs generalizing m a with
  | nil =>
    have : ¬ (a ≤ i ∧ i < a + ([] : List Byte).length) := by simp
    rw [if_neg this]; rfl
  | cons b bs ih =>
    rw [Memory.writeBytes, ih, Memory.read_write]
    simp only [List.length_cons]
    by_cases eq : a = i
    · subst eq
      have h1 : ¬ (a + 1 ≤ a ∧ a < a + 1 + bs.length) := by omega
      have h2 : a ≤ a ∧ a < a + (bs.length + 1) := by omega
      simp [h2]
    · by_cases inside : a ≤ i ∧ i < a + (bs.length + 1)
      · have h1 : a + 1 ≤ i ∧ i < a + 1 + bs.length := by omega
        have h3 : i - a = (i - (a + 1)) + 1 := by omega
        rw [if_pos h1, if_pos inside, h3, List.getElem?_cons_succ]
      · have h1 : ¬ (a + 1 ≤ i ∧ i < a + 1 + bs.length) := by omega
        rw [if_neg h1, if_neg inside, if_neg eq]

/-- A write at an address of the store keeps the canonical form from any lower bound at or below it. -/
theorem Memory.wfFrom_write (m : Memory) (lo a : Nat) (b : Byte) (wf : Memory.wfFrom lo m = true) (ge : lo ≤ a)
    (lt : a < Config.bufSize) : Memory.wfFrom lo (Memory.write m a b) = true := by
  induction m generalizing lo with
  | nil => simp [Memory.write, Memory.wfFrom, ge, lt]
  | cons c m ih =>
    simp only [Memory.wfFrom, Bool.and_eq_true, decide_eq_true_eq] at wf
    obtain ⟨⟨low, high⟩, rest⟩ := wf
    unfold Memory.write
    split
    · rename_i below
      simp [Memory.wfFrom, ge, lt, high, rest, Nat.succ_le_of_lt below]
    · split
      · rename_i same
        simp [Memory.wfFrom, same, low, high, rest]
      · have up : c.1 + 1 ≤ a := by omega
        simp [Memory.wfFrom, low, high, ih (c.1 + 1) rest up]

/-- One write keeps the canonical form. -/
theorem Memory.wf_write (m : Memory) (a : Nat) (b : Byte) (wf : Memory.wf m = true) (lt : a < Config.bufSize) :
    Memory.wf (Memory.write m a b) = true :=
  Memory.wfFrom_write m 0 a b wf (Nat.zero_le a) lt

/-- A write of several bytes inside the store keeps the canonical form. -/
theorem Memory.wf_writeBytes (m : Memory) (a : Nat) (bs : List Byte) (wf : Memory.wf m = true)
    (inside : a + bs.length ≤ Config.bufSize) : Memory.wf (Memory.writeBytes m a bs) = true := by
  induction bs generalizing m a with
  | nil => exact wf
  | cons b bs ih =>
    simp only [List.length_cons] at inside
    exact ih _ (a + 1) (Memory.wf_write m a b wf (by omega)) (by omega)

/-- The stores of the reset state are in canonical form. -/
theorem Memory.wf_reset : Memory.wf State.reset.buf = true ∧ Memory.wf State.reset.rxbuf = true := ⟨rfl, rfl⟩

/-- One byte read is the byte listed, or the unwritten fault. -/
theorem Memory.readByte_eq_next {m : Memory} {a : Nat} {b : Byte} :
    Memory.readByte m a = .next b ↔ Memory.read m a = some b := by
  unfold Memory.readByte
  split <;> simp_all

/-- An unlisted byte faults. -/
theorem Memory.readByte_unwritten {m : Memory} {a : Nat} (h : Memory.read m a = none) :
    Memory.readByte m a = .fault .unwritten := by
  simp [Memory.readByte, h]

/-- Several bytes read are exactly the bytes listed. -/
theorem Memory.readBytes_eq_next {m : Memory} {a k : Nat} {bs : List Byte} :
    Memory.readBytes m a k = .next bs ↔
      bs.length = k ∧ ∀ i (h : i < bs.length), Memory.read m (a + i) = some bs[i] := by
  rw [Memory.readBytes, readAll_eq_next]
  constructor
  · intro eq
    have len : bs.length = k := by simpa using (congrArg List.length eq).symm
    refine ⟨len, fun i h => ?_⟩
    have at_i := congrArg (fun l => l[i]?) eq
    simp only [List.getElem?_map] at at_i
    rw [List.getElem?_range (by omega), List.getElem?_eq_getElem h] at at_i
    exact Memory.readByte_eq_next.mp (by simpa using at_i)
  · rintro ⟨rfl, each⟩
    apply List.ext_getElem
    · simp
    · intro i h1 h2
      simp only [List.getElem_map, List.getElem_range]
      exact Memory.readByte_eq_next.mpr (each i (by simpa using h2))

/-- If one of the bytes is unlisted, the read of all of them faults. -/
theorem Memory.readBytes_fault {m : Memory} {a k i : Nat} (lt : i < k) (h : Memory.read m (a + i) = none) :
    Memory.readBytes m a k = .fault .unwritten := by
  apply readAll_eq_fault
  · intro x hx
    obtain ⟨j, -, rfl⟩ := List.mem_map.mp hx
    unfold Memory.readByte
    split
    · exact .inl ⟨_, rfl⟩
    · exact .inr rfl
  · exact List.mem_map.mpr ⟨i, List.mem_range.mpr lt, Memory.readByte_unwritten h⟩

end Sys2Proof.Machine
end

