-- ==== Sys2Proof/Laws/Bus.lean ====
section
/-! SUPPORT. Laws/Bus: what draws, exchanges and transactions do to the bus. -/

namespace Sys2Proof.Machine

/-- `k` draws give `k` values and count `k` more. -/
theorem Draws.takeMany_length {α : Type} (free : Nat → α) (k : Nat) (d : Draws α) :
    (Draws.takeMany free k d).1.length = k := by
  induction k generalizing d with
  | zero => rfl
  | succ k ih => simp [Draws.takeMany, ih]

/-- While values are set, they are what is drawn, in their order. -/
theorem Draws.takeMany_plan {α : Type} (free : Nat → α) (vs rest : List α) (d : Nat) :
    Draws.takeMany free vs.length { plan := vs ++ rest, drawn := d } =
      (vs, { plan := rest, drawn := d + vs.length }) := by
  induction vs generalizing d with
  | nil => rfl
  | cons v vs ih =>
    simp only [List.length_cons, Draws.takeMany, Draws.take, List.cons_append, List.head?_cons, Option.getD_some,
      List.tail_cons, ih]
    congr 2
    omega

/-- Exchanging a list of bytes receives the next draws, appends one event a byte, and leaves `CSB` as it is. -/
theorem Bus.xferAll_eq (txs : List Byte) (b : Bus) :
    Bus.xferAll txs b =
      let drawn := Draws.takeMany Config.freeByte txs.length b.rx
      (drawn.1, { csb := b.csb
                  trace := b.trace ++ ((txs.zip drawn.1).map fun p => BusEvent.xfer p.1 p.2)
                  rx := drawn.2 }) := by
  induction txs generalizing b with
  | nil => simp [Bus.xferAll, Draws.takeMany]
  | cons tx txs ih => simp [Bus.xferAll, Bus.xfer, Draws.takeMany, ih]

/-- One byte is received for each byte sent. -/
theorem Bus.xferAll_length (txs : List Byte) (b : Bus) : (Bus.xferAll txs b).1.length = txs.length := by
  rw [Bus.xferAll_eq]
  exact Draws.takeMany_length _ _ _

/-- A transaction that only sends: `CSB` ends high and one span is appended, with a draw for every byte. -/
theorem sendTxn_eq (bytes : List Byte) (b : Bus) :
    sendTxn bytes b =
      let drawn := Draws.takeMany Config.freeByte bytes.length b.rx
      { csb := true, trace := b.trace ++ spanEvents (bytes.zip drawn.1), rx := drawn.2 } := by
  simp [sendTxn, Bus.xferAll_eq, Bus.csLow, Bus.csHigh, spanEvents]

/-- The bytes of a read transaction are the draws after those of the command phase. -/
theorem readTxn_eq (rom : Vector Half 256) (n : Nat) (c : Half) (b : Bus) :
    readTxn rom n c b =
      let cmd := Draws.takeMany Config.freeByte (cmdFrame rom c).length b.rx
      let data := Draws.takeMany Config.freeByte (8 * n) cmd.2
      (data.1,
       { csb := true
         trace := b.trace ++ spanEvents ((cmdFrame rom c).zip cmd.1 ++
           (List.replicate (8 * n) Config.fillByte).zip data.1)
         rx := data.2 }) := by
  simp [readTxn, Bus.xferAll_eq, Bus.csLow, Bus.csHigh, spanEvents]

/-- A command frame has 4 bytes (R79). -/
@[simp] theorem cmdFrame_length (rom : Vector Half 256) (c : Half) : (cmdFrame rom c).length = 4 := rfl

/-- A group frame has two bytes more than its data (R80). -/
@[simp] theorem groupFrame_length (rom : Vector Half 256) (d : List Byte) :
    (groupFrame rom d).length = d.length + 2 := by simp [groupFrame]

/-- A read transaction receives `8N` bytes (R129). -/
theorem readTxn_length (rom : Vector Half 256) (n : Nat) (c : Half) (b : Bus) :
    (readTxn rom n c b).1.length = 8 * n := by
  simp [readTxn, Bus.xferAll_length]

/-- Following `CSB` through two pieces of trace. -/
theorem traceScan_append (es fs : List BusEvent) (csb : Bool) :
    traceScan csb (es ++ fs) = (traceScan csb es).bind fun mid => traceScan mid fs := by
  induction es generalizing csb with
  | nil => simp [traceScan]
  | cons e es ih =>
    cases e <;> cases csb <;> simp [traceScan, ih]

/-- The exchanges of one span keep `CSB` low, and its last event raises it. -/
theorem traceScan_exchanges (pairs : List (Byte × Byte)) :
    traceScan false ((pairs.map fun p => BusEvent.xfer p.1 p.2) ++ [.csHigh]) = some true := by
  induction pairs with
  | nil => rfl
  | cons p pairs ih => simpa [traceScan] using ih

/-- One span goes from `CSB` high to `CSB` high (R121). -/
theorem traceScan_span (pairs : List (Byte × Byte)) : traceScan true (spanEvents pairs) = some true := by
  simpa [spanEvents, traceScan] using traceScan_exchanges pairs

end Sys2Proof.Machine
end

