-- ==== Sys2Proof/Laws/Chain.lean ====
section
/-! SUPPORT. Laws/Chain: what timeouts and wakes do to the conditions of the chain. -/

namespace Sys2Proof.Machine

/-- Timeouts keep the number of ICs. -/
@[simp] theorem Chain.timeouts_length (c : Chain) : c.timeouts.cond.length = c.cond.length := by
  simp [Chain.timeouts, Draws.takeMany_length]

/-- After timeouts each IC's condition is the lower of its own and a draw (R156). -/
theorem Chain.timeouts_cond {c : Chain} {i : Nat} {x : Cond} (h : c.cond[i]? = some x) :
    ∃ d, c.timeouts.cond[i]? = some (condLower x d) := by
  obtain ⟨lt, rfl⟩ := List.getElem?_eq_some_iff.mp h
  have lt' : i < (Draws.takeMany Config.freeCond c.cond.length c.draws).1.length := by
    rw [Draws.takeMany_length]; exact lt
  refine ⟨(Draws.takeMany Config.freeCond c.cond.length c.draws).1[i], ?_⟩
  simp only [Chain.timeouts, List.getElem?_zipWith, h, List.getElem?_eq_getElem lt']

/-- As many conditions come out of a wake as there are pairs of a condition and a draw. -/
theorem wakeConds_length (f : Nat → Cond → Cond → Cond) (i : Nat) (cs ds : List Cond) :
    (wakeConds f i cs ds).length = min cs.length ds.length := by
  induction cs generalizing i ds with
  | nil => simp [wakeConds]
  | cons c cs ih => cases ds <;> simp [wakeConds, ih]

/-- Each condition after a wake comes from the one before it and a draw. -/
theorem wakeConds_getElem (f : Nat → Cond → Cond → Cond) (i j : Nat) (cs ds : List Cond) {x d : Cond}
    (hc : cs[j]? = some x) (hd : ds[j]? = some d) : (wakeConds f i cs ds)[j]? = some (f (i + j) x d) := by
  induction cs generalizing i j ds with
  | nil => simp at hc
  | cons c cs ih =>
    cases ds with
    | nil => simp at hd
    | cons e ds =>
      cases j with
      | zero => simp at hc hd; simp [wakeConds, hc, hd]
      | succ j =>
        simp only [List.getElem?_cons_succ] at hc hd
        rw [wakeConds, List.getElem?_cons_succ, ih (i + 1) j ds hc hd]
        congr 2; omega

/-- A wake keeps the number of ICs. -/
@[simp] theorem Chain.wake_length (f : Nat → Cond → Cond → Cond) (c : Chain) :
    (c.wake f).cond.length = c.cond.length := by
  simp [Chain.wake, wakeConds_length, Draws.takeMany_length]

/-- After a wake each IC's condition is the wake's result from its own condition and a draw. -/
theorem Chain.wake_cond {f : Nat → Cond → Cond → Cond} {c : Chain} {i : Nat} {x : Cond} (h : c.cond[i]? = some x) :
    ∃ d, (c.wake f).cond[i]? = some (f i x d) := by
  obtain ⟨lt, -⟩ := List.getElem?_eq_some_iff.mp h
  have lt' : i < (Draws.takeMany Config.freeCond c.cond.length c.draws).1.length := by
    rw [Draws.takeMany_length]; exact lt
  refine ⟨(Draws.takeMany Config.freeCond c.cond.length c.draws).1[i], ?_⟩
  have := wakeConds_getElem f 0 i c.cond _ h (List.getElem?_eq_getElem lt')
  simpa only [Chain.wake, Nat.zero_add] using this

end Sys2Proof.Machine
end

