-- ==== Sys2Proof/Laws/Operands.lean ====
section
/-! SUPPORT. Laws/Operands: when each operand form answers a value, and which. -/

namespace Sys2Proof.Machine

/-- `MAX_IC` is at least 1 and at most 32 (R8). -/
theorem Params.maxIc_bounds (p : Params) : 1 ≤ p.maxIc ∧ p.maxIc ≤ 32 := by
  have := p.maxIcPred.isLt
  simp only [Params.maxIc]
  omega

/-- `N` is accepted exactly in `1 .. MAX_IC` (R77). -/
theorem chainSize_eq_next {n : BitVec 8} {s : State} {k : Nat} :
    chainSize n s = .next k ↔ 1 ≤ n.toNat ∧ n.toNat ≤ s.params.maxIc ∧ k = n.toNat := by
  unfold chainSize
  split <;> simp_all [eq_comm]

/-- `WRGRP` accepts exactly the single-group kinds (R75). -/
theorem writableKind_eq_next {f : KindField} {k : SingleKind} :
    writableKind f = .next k ↔ f = .named (.single k) := by
  cases f with
  | reserved c => simp [writableKind]
  | named kind => cases kind <;> simp [writableKind]

/-- `RDGRP` accepts exactly the kinds that have a name (R75). -/
theorem readableKind_eq_next {f : KindField} {k : Kind} : readableKind f = .next k ↔ f = .named k := by
  cases f <;> simp [readableKind]

/-- The groups selected for a single-group kind (R76). -/
theorem selectGroups_single {k : SingleKind} {reg : BitVec 4} {s : State} {gs : List Nat} :
    selectGroups (.single k) reg s = .next gs ↔ reg.toNat ≤ 1 ∧ gs = [1] := by
  rw [eq_comm (a := gs)]
  simp [selectGroups, andThen_eq_next, require_eq_next]

/-- The groups selected for a kind with several groups (R76). -/
theorem selectGroups_multi {m : MultiKind} {reg : BitVec 4} {s : State} {gs : List Nat} :
    selectGroups (.multi m) reg s = .next gs ↔
      s.limValid = true ∧ reg.toNat ≤ groupLimit m s.lim ∧
        gs = if reg.toNat = 0 then List.range' 1 (groupLimit m s.lim) else [reg.toNat] := by
  rw [eq_comm (a := gs)]
  cases h : s.limValid
  · simp [selectGroups, State.readLimits, h]
  · simp [selectGroups, andThen_eq_next, require_eq_next, State.readLimits, h]

/-- The loop of `REV` ends well exactly when every listed IC's flag is `rev` (R181). -/
theorem checkReverse_eq_next {s : State} {rev : Bool} {ics : List Nat} {u : Unit} :
    checkReverse s rev ics = .next u ↔ ∀ ic ∈ ics, (s.mirror ic).isospiReverse = .written rev := by
  induction ics with
  | nil => simp [checkReverse]
  | cons ic ics ih =>
    simp only [checkReverse, andThen_eq_next, reverseFlag, Slot.read_eq_next, require_eq_next, ih,
      List.mem_cons, forall_eq_or_imp]
    constructor
    · rintro ⟨r, hr, -, eq, rest⟩
      exact ⟨by rw [hr, beq_iff_eq.mp eq], rest⟩
    · rintro ⟨hr, rest⟩
      exact ⟨rev, hr, (), by simp, rest⟩

/-- `REV(N)` is the flag that all of `M[0 .. N-1]` hold (R181). -/
theorem chainReverse_eq_next {n : Nat} {s : State} {rev : Bool} (pos : 1 ≤ n) :
    chainReverse n s = .next rev ↔ ∀ ic < n, (s.mirror ic).isospiReverse = .written rev := by
  simp only [chainReverse, andThen_eq_next, reverseFlag, Slot.read_eq_next, checkReverse_eq_next, List.mem_range'_1]
  constructor
  · rintro ⟨r, h0, -, rest, eq⟩ ic lt
    cases eq
    rcases Nat.eq_zero_or_pos ic with rfl | one
    · exact h0
    · exact rest ic ⟨one, by omega⟩
  · intro all
    exact ⟨rev, all 0 (by omega), (), fun ic h => all ic (by omega), rfl⟩

/-- A group marshalled is exactly the 6 transmit bytes written (R33). -/
theorem txGroup_eq_next {s : State} {k : SingleKind} {ic : Nat} {d : List Byte} :
    txGroup s k ic = .next d ↔ ((s.mirror ic).get k).tx.toList = d.map Slot.written := by
  rw [txGroup, readAll_eq_next]
  constructor
  · intro eq
    have back := congrArg (List.map fun o : Host.Outcome Byte Fault Refusal =>
      match o with
      | .next b => Slot.written b
      | .fault _ => Slot.unwritten
      | .refused _ => Slot.unwritten) eq
    rw [List.map_map, List.map_map] at back
    rw [show d.map Slot.written = _ from back.symm, List.map_congr_left (g := id)]
    · simp
    · intro x _
      cases x <;> rfl
  · intro eq
    simp [eq, List.map_map, Function.comp_def]

/-- The groups `WRGRP` marshals, in shift order (R184). -/
theorem txGroups_eq_next {n : Nat} {rev : Bool} {k : SingleKind} {s : State} {ds : List (List Byte)} :
    txGroups n rev k s = .next ds ↔
      ds.length = n ∧ ∀ p (h : p < ds.length), txGroup s k (mapIndex p n rev) = .next ds[p] := by
  rw [txGroups, readAll_eq_next]
  constructor
  · intro eq
    have len : ds.length = n := by simpa using (congrArg List.length eq).symm
    refine ⟨len, fun p h => ?_⟩
    have at_p := congrArg (fun l => l[p]?) eq
    simp only [List.getElem?_map] at at_p
    rw [List.getElem?_range (by omega), List.getElem?_eq_getElem h] at at_p
    simpa using at_p
  · rintro ⟨rfl, each⟩
    apply List.ext_getElem
    · simp
    · intro i h1 h2
      simpa using each i (by simpa using h2)

/-- The groups of `BUF`, in shift order (R28). -/
theorem bufGroups_eq_next {n : Nat} {s : State} {ds : List (List Byte)} :
    bufGroups n s = .next ds ↔
      ds.length = n ∧ ∀ p (h : p < ds.length), Memory.readBytes s.buf (6 * p) 6 = .next ds[p] := by
  rw [bufGroups, readAll_eq_next]
  constructor
  · intro eq
    have len : ds.length = n := by simpa using (congrArg List.length eq).symm
    refine ⟨len, fun p h => ?_⟩
    have at_p := congrArg (fun l => l[p]?) eq
    simp only [List.getElem?_map] at at_p
    rw [List.getElem?_range (by omega), List.getElem?_eq_getElem h] at at_p
    simpa using at_p
  · rintro ⟨rfl, each⟩
    apply List.ext_getElem
    · simp
    · intro i h1 h2
      simpa using each i (by simpa using h2)

/-- The mapping stays inside the chain (R180). -/
theorem mapIndex_lt {p n : Nat} {rev : Bool} (h : p < n) : mapIndex p n rev < n := by
  unfold mapIndex
  split <;> omega

/-- The mapping is its own inverse (R180). -/
theorem mapIndex_mapIndex {p n : Nat} {rev : Bool} (h : p < n) : mapIndex (mapIndex p n rev) n rev = p := by
  unfold mapIndex
  split <;> omega

end Sys2Proof.Machine
end

