-- ==== Sys2Proof/Laws/Register.lean ====
section
/-! SUPPORT. Laws/Register: where the received groups go, and what the loop of `RDGRP` leaves alone. -/

namespace Sys2Proof.Machine

/-- The transmit mirrors and the fields no operation writes are the same after a group is stored (R188). -/
theorem storeGroup_undecoded (k : Kind) (g : Nat) (r : Group) (bad : Bool) (m : Mirror) (h : undecoded m) :
    undecoded (storeGroup k g r bad m) := by
  cases k with
  | single sk => exact h
  | multi mk => cases mk <;> exact h

/-- Storing received group `p` changes the mirror set of IC `map(p, N, rev)` and no other (R186). -/
theorem storeOne_get (rom : Vector Half 256) (k : Kind) (g n : Nat) (rev : Bool) (rx : List Byte)
    (ms : Vector Mirror Config.icLimit) (p ic : Nat) (lt : ic < Config.icLimit) :
    ((storeOne rom k g n rev rx ms p)[ic]?).getD Mirror.reset =
      if mapIndex p n rev = ic then
        storeGroup k g (groupAt rx p) (groupBad rom (groupAt rx p)) ((ms[ic]?).getD Mirror.reset)
      else (ms[ic]?).getD Mirror.reset := by
  simp only [storeOne, Vector.getElem?_setIfInBounds]
  by_cases eq : mapIndex p n rev = ic
  · simp [eq, lt]
  · simp [eq]

/-- Over a list of shift-order indices that hold no two alike, an IC's mirror set is stored once, if its index is
among them. -/
theorem storeOne_foldl (rom : Vector Half 256) (k : Kind) (g n : Nat) (rev : Bool) (rx : List Byte) (ps : List Nat)
    (ms : Vector Mirror Config.icLimit) (ic : Nat) (lt : ic < Config.icLimit) (small : ∀ p ∈ ps, p < n)
    (nodup : ps.Nodup) (q : Nat) (hq : q < n) (hic : mapIndex q n rev = ic) :
    ((ps.foldl (storeOne rom k g n rev rx) ms)[ic]?).getD Mirror.reset =
      if q ∈ ps then storeGroup k g (groupAt rx q) (groupBad rom (groupAt rx q)) ((ms[ic]?).getD Mirror.reset)
      else (ms[ic]?).getD Mirror.reset := by
  induction ps generalizing ms with
  | nil => simp
  | cons p ps ih =>
    obtain ⟨fresh, rest⟩ := List.nodup_cons.mp nodup
    rw [List.foldl_cons, ih _ (fun x hx => small x (List.mem_cons_of_mem _ hx)) rest,
      storeOne_get _ _ _ _ _ _ _ _ _ lt]
    by_cases eq : p = q
    · subst eq
      simp [fresh, hic]
    · have other : mapIndex p n rev ≠ ic := by
        intro same
        apply eq
        rw [← mapIndex_mapIndex (rev := rev) (small p List.mem_cons_self), same, ← hic, mapIndex_mapIndex hq]
      have ne : ¬ q = p := fun h => eq h.symm
      simp [other, ne]

/-- Indices outside the chain leave an IC alone. -/
theorem storeOne_foldl_outside (rom : Vector Half 256) (k : Kind) (g n : Nat) (rev : Bool) (rx : List Byte)
    (ps : List Nat) (ms : Vector Mirror Config.icLimit) (ic : Nat) (lt : ic < Config.icLimit)
    (small : ∀ p ∈ ps, p < n) (out : n ≤ ic) :
    ((ps.foldl (storeOne rom k g n rev rx) ms)[ic]?).getD Mirror.reset = (ms[ic]?).getD Mirror.reset := by
  induction ps generalizing ms with
  | nil => rfl
  | cons p ps ih =>
    have inside := mapIndex_lt (rev := rev) (small p List.mem_cons_self)
    rw [List.foldl_cons, ih _ (fun x hx => small x (List.mem_cons_of_mem _ hx)),
      storeOne_get _ _ _ _ _ _ _ _ _ lt, if_neg (by omega)]

/-- After all groups of a transaction are stored, IC `ic` of the chain holds the group with shift-order index
`map(ic, N, rev)`, and every mirror set at `N` or above is as before (R45, R186). -/
theorem storeGroups_get (rom : Vector Half 256) (k : Kind) (g n : Nat) (rev : Bool) (rx : List Byte)
    (ms : Vector Mirror Config.icLimit) (ic : Nat) (small : n ≤ Config.icLimit) :
    ((storeGroups rom k g n rev rx ms)[ic]?).getD Mirror.reset =
      if ic < n then
        storeGroup k g (groupAt rx (mapIndex ic n rev)) (groupBad rom (groupAt rx (mapIndex ic n rev)))
          ((ms[ic]?).getD Mirror.reset)
      else (ms[ic]?).getD Mirror.reset := by
  by_cases lt : ic < Config.icLimit
  · by_cases inside : ic < n
    · rw [if_pos inside, storeGroups, storeOne_foldl rom k g n rev rx _ ms ic lt
        (fun p hp => List.mem_range.mp hp) List.nodup_range (mapIndex ic n rev) (mapIndex_lt inside)
        (mapIndex_mapIndex inside), if_pos (List.mem_range.mpr (mapIndex_lt inside))]
    · rw [if_neg inside, storeGroups, storeOne_foldl_outside rom k g n rev rx _ ms ic lt
        (fun p hp => List.mem_range.mp hp) (by omega)]
  · have out : ¬ ic < n := by omega
    have none1 : (storeGroups rom k g n rev rx ms)[ic]? = none := Vector.getElem?_eq_none (by omega)
    have none2 : ms[ic]? = none := Vector.getElem?_eq_none (by omega)
    rw [if_neg out, none1, none2]

/-- One pass of the loop of `RDGRP` changes the bus, `RXBUF`, the mirrors and the tally, and nothing else. -/
theorem readGroup_frame (k : Kind) (n : Nat) (rev : Bool) (g : Nat) (s : State) :
    ∃ bus rxbuf mirrors counts, (readGroup k n rev g s).2 =
      (((s.setBus bus).setRxbuf rxbuf).setMirrors mirrors).setCrcCount counts := ⟨_, _, _, _, rfl⟩

/-- Of two updates of the same four parts, the second stands. -/
theorem State.fourParts_twice (s : State) (bus bus' : Bus) (rxbuf rxbuf' : Memory)
    (mirrors mirrors' : Vector Mirror Config.icLimit) (counts counts' : Vector Half 10) :
    ((((((((s.setBus bus).setRxbuf rxbuf).setMirrors mirrors).setCrcCount counts).setBus bus').setRxbuf
      rxbuf').setMirrors mirrors').setCrcCount counts') =
    (((s.setBus bus').setRxbuf rxbuf').setMirrors mirrors').setCrcCount counts' := by
  apply State.ext <;> simp

/-- The whole loop of `RDGRP` changes the bus, `RXBUF`, the mirrors and the tally, and nothing else. -/
theorem readGroups_frame (k : Kind) (n : Nat) (rev : Bool) (gs : List Nat) (s : State) :
    ∃ bus rxbuf mirrors counts, (readGroups k n rev gs s).2 =
      (((s.setBus bus).setRxbuf rxbuf).setMirrors mirrors).setCrcCount counts := by
  induction gs generalizing s with
  | nil => exact ⟨s.bus, s.rxbuf, s.mirrors, s.crcCount, rfl⟩
  | cons g gs ih =>
    obtain ⟨bus, rxbuf, mirrors, counts, rest⟩ := ih (readGroup k n rev g s).2
    obtain ⟨bus', rxbuf', mirrors', counts', first⟩ := readGroup_frame k n rev g s
    refine ⟨bus, rxbuf, mirrors, counts, ?_⟩
    rw [first, State.fourParts_twice] at rest
    simp only [readGroups, first, rest]

end Sys2Proof.Machine
end

