-- ==== Sys2Proof/Laws/Exec.lean ====
section
/-! SUPPORT. Laws/Exec: for each operation, exactly when it answers a next state and which; and what a step can do. -/

namespace Sys2Proof.Machine

theorem execPec15_eq_next {s t : State} :
    execPec15 s = .next t ↔
      ∃ data, pecOperand s = .next data ∧ t = s.setRes (pec15 s.rom data) := by
  simp [execPec15, andThen_eq_next, eq_comm (a := t)]

theorem execCmd_eq_next {s t : State} :
    execCmd s = .next t ↔
      ∃ c, s.argCmd = .written c ∧ t = (s.setBus (sendTxn (cmdFrame s.rom c) s.bus)).timeouts := by
  simp [execCmd, andThen_eq_next, Slot.read_eq_next, eq_comm (a := t)]

theorem execWrite_eq_next {n : BitVec 8} {s t : State} :
    execWrite n s = .next t ↔
      (1 ≤ n.toNat ∧ n.toNat ≤ s.params.maxIc) ∧ ∃ c groups, s.argCmd = .written c ∧
        bufGroups n.toNat s = .next groups ∧ t = (s.setBus (writeTxn s.rom c groups s.bus)).timeouts := by
  simp only [execWrite, andThen_eq_next, chainSize_eq_next, Slot.read_eq_next]
  constructor
  · rintro ⟨k, ⟨low, high, rfl⟩, c, hc, groups, hg, eq⟩
    exact ⟨⟨low, high⟩, c, groups, hc, hg, (Host.Outcome.next.inj eq).symm⟩
  · rintro ⟨⟨low, high⟩, c, groups, hc, hg, rfl⟩
    exact ⟨_, ⟨low, high, rfl⟩, c, hc, groups, hg, rfl⟩

theorem execRead_eq_next {n : BitVec 8} {s t : State} :
    execRead n s = .next t ↔
      (1 ≤ n.toNat ∧ n.toNat ≤ s.params.maxIc) ∧ ∃ c, s.argCmd = .written c ∧
        t = (((s.setBus (readTxn s.rom n.toNat c s.bus).2).setRxbuf
          (Memory.writeBytes s.rxbuf 0 (readTxn s.rom n.toNat c s.bus).1)).setRes
            (statusWord ((badFlags s.rom n.toNat (readTxn s.rom n.toNat c s.bus).1).any id))).timeouts := by
  simp only [execRead, andThen_eq_next, chainSize_eq_next, Slot.read_eq_next]
  constructor
  · rintro ⟨k, ⟨low, high, rfl⟩, c, hc, eq⟩
    exact ⟨⟨low, high⟩, c, hc, (Host.Outcome.next.inj eq).symm⟩
  · rintro ⟨⟨low, high⟩, c, hc, rfl⟩
    exact ⟨_, ⟨low, high, rfl⟩, c, hc, rfl⟩

theorem execWakeIdle_eq_next {n : BitVec 8} {s t : State} :
    execWakeIdle n s = .next t ↔
      (1 ≤ n.toNat ∧ n.toNat ≤ s.params.maxIc) ∧
        t = (s.setBus (wakeIdlePulses s.params.tIdleGap n.toNat s.bus)).setChain
          (s.chain.wake (wakeIdleCond n.toNat)) := by
  simp only [execWakeIdle, andThen_eq_next, chainSize_eq_next]
  constructor
  · rintro ⟨k, ⟨low, high, rfl⟩, eq⟩
    exact ⟨⟨low, high⟩, (Host.Outcome.next.inj eq).symm⟩
  · rintro ⟨⟨low, high⟩, rfl⟩
    exact ⟨_, ⟨low, high, rfl⟩, rfl⟩

theorem execWakeSleep_eq_next {n : BitVec 8} {s t : State} :
    execWakeSleep n s = .next t ↔
      (1 ≤ n.toNat ∧ n.toNat ≤ s.params.maxIc) ∧
        t = (s.setBus (wakeSleepPulses n.toNat s.bus)).setChain (s.chain.wake (wakeSleepCond n.toNat)) := by
  simp only [execWakeSleep, andThen_eq_next, chainSize_eq_next]
  constructor
  · rintro ⟨k, ⟨low, high, rfl⟩, eq⟩
    exact ⟨⟨low, high⟩, (Host.Outcome.next.inj eq).symm⟩
  · rintro ⟨⟨low, high⟩, rfl⟩
    exact ⟨_, ⟨low, high, rfl⟩, rfl⟩

theorem execInitLimits_eq_next {numStat : BitVec 4} {s t : State} :
    execInitLimits numStat s = .next t ↔
      s.limValid = false ∧ ∃ v, s.argLim = .written v ∧ limitsOk (limitsOf v numStat) = true ∧
        t = s.setLimits (limitsOf v numStat) := by
  simp [execInitLimits, andThen_eq_next, require_eq_next, Slot.read_eq_next, eq_comm (a := t)]

theorem execWrgrp_eq_next {kind : KindField} {reg : BitVec 4} {n : BitVec 8} {s t : State} :
    execWrgrp kind reg n s = .next t ↔
      (1 ≤ n.toNat ∧ n.toNat ≤ s.params.maxIc) ∧ ∃ k rev groups, kind = .named (.single k) ∧ reg.toNat ≤ 1 ∧
        (∀ ic < n.toNat, (s.mirror ic).isospiReverse = .written rev) ∧
        txGroups n.toNat rev k s = .next groups ∧
        t = ((s.setBuf (Memory.writeBytes s.buf 0 groups.flatten)).setBus
          (writeTxn s.rom (s.params.cmdCode (.single k) .wr 1) groups s.bus)).timeouts := by
  simp only [execWrgrp, andThen_eq_next, chainSize_eq_next, writableKind_eq_next, require_eq_next, decide_eq_true_eq]
  constructor
  · rintro ⟨m, ⟨low, high, rfl⟩, k, hk, -, hr, rev, hrev, groups, hg, eq⟩
    exact ⟨⟨low, high⟩, k, rev, groups, hk, hr, (chainReverse_eq_next low).mp hrev, hg,
      (Host.Outcome.next.inj eq).symm⟩
  · rintro ⟨⟨low, high⟩, k, rev, groups, hk, hr, hrev, hg, rfl⟩
    exact ⟨_, ⟨low, high, rfl⟩, k, hk, (), hr, rev, (chainReverse_eq_next low).mpr hrev, groups, hg, rfl⟩

theorem execRdgrp_eq_next {kind : KindField} {reg : BitVec 4} {n : BitVec 8} {s t : State} :
    execRdgrp kind reg n s = .next t ↔
      (1 ≤ n.toNat ∧ n.toNat ≤ s.params.maxIc) ∧ ∃ k gs rev, kind = .named k ∧ selectGroups k reg s = .next gs ∧
        (∀ ic < n.toNat, (s.mirror ic).isospiReverse = .written rev) ∧
        t = ((readGroups k n.toNat rev gs s).2.setRes (statusWord (readGroups k n.toNat rev gs s).1)).timeouts := by
  simp only [execRdgrp, andThen_eq_next, chainSize_eq_next, readableKind_eq_next]
  constructor
  · rintro ⟨m, ⟨low, high, rfl⟩, k, hk, gs, hg, rev, hrev, eq⟩
    exact ⟨⟨low, high⟩, k, gs, rev, hk, hg, (chainReverse_eq_next low).mp hrev, (Host.Outcome.next.inj eq).symm⟩
  · rintro ⟨⟨low, high⟩, k, gs, rev, hk, hg, hrev, rfl⟩
    exact ⟨_, ⟨low, high, rfl⟩, k, hk, gs, hg, rev, (chainReverse_eq_next low).mpr hrev, rfl⟩

/-- What a step that answers a state can be: a wait, an access through the host port, or an operation. -/
theorem step_cases {s t : State} (h : step s = .next t) :
    (s.host = [] ∧ t = s.timeouts) ∨
    (∃ a rest, s.seq = .idle ∧ s.host = .port a :: rest ∧ hostAccess a (s.setHost rest).timeouts = .next t) ∨
    (∃ w rest i, s.seq = .idle ∧ s.host = .request w :: rest ∧ decode w = .ok i ∧
      exec i ((s.setHost rest).timeouts.setReq w) = .next t) := by
  cases hh : s.host with
  | nil =>
    simp only [step, nextAction, hh] at h
    exact .inl ⟨rfl, (Host.Outcome.next.inj h).symm⟩
  | cons a rest =>
    cases hs : s.seq with
    | busy => simp [step, nextAction, hh, hs] at h
    | idle =>
      cases a with
      | port p =>
        simp only [step, nextAction, hh, hs] at h
        exact .inr (.inl ⟨p, rest, rfl, rfl, h⟩)
      | request w =>
        simp only [step, nextAction, hh, hs] at h
        cases hd : decode w with
        | error e => simp [hd] at h
        | ok i =>
          simp only [hd] at h
          exact .inr (.inr ⟨w, rest, i, rfl, rfl, hd, h⟩)

end Sys2Proof.Machine
end

