-- ==== Sys2Proof/Laws/HostPort.lean ====
section
/-! SUPPORT. Laws/HostPort: what a host access can do. -/

namespace Sys2Proof.Machine

/-- A mirror field is delivered exactly if its mirror set exists and the field was written. -/
theorem readMirror_eq_next {α : Type} {ic : Fin 32} {s : State} {field : Mirror → Slot α} {toWord : α → Word} {w : Word} :
    readMirror ic s field toWord = .next w ↔
      ic.val < s.params.maxIc ∧ ∃ v, field (s.mirror ic.val) = .written v ∧ w = toWord v := by
  by_cases h : ic.val < s.params.maxIc
  · simp [readMirror, mirrorExists, h, andThen_eq_next, Slot.read_eq_next, eq_comm (a := w)]
  · simp [readMirror, mirrorExists, h]

/-- A mirror field faults exactly if its mirror set does not exist or nothing has written the field. -/
theorem readMirror_eq_fault {α : Type} {ic : Fin 32} {s : State} {field : Mirror → Slot α} {toWord : α → Word} :
    readMirror ic s field toWord = .fault .unwritten ↔
      (ic.val < s.params.maxIc → field (s.mirror ic.val) = .unwritten) := by
  by_cases h : ic.val < s.params.maxIc
  · cases hf : field (s.mirror ic.val) <;> simp [readMirror, mirrorExists, h, hf]
  · simp [readMirror, mirrorExists, h]

/-- A host write to a mirror set answers a state exactly if the mirror set exists. -/
theorem writeMirror_eq_next {ic : Fin 32} {s t : State} {f : Mirror → Mirror} :
    writeMirror ic s f = .next t ↔
      ic.val < s.params.maxIc ∧ t = s.setMirrors (s.mirrors.setIfInBounds ic.val (f (s.mirror ic.val))) := by
  by_cases h : ic.val < s.params.maxIc <;> simp [writeMirror, mirrorExists, h, eq_comm]

/-- A host write to a mirror set that does not exist is refused. -/
theorem writeMirror_absent {ic : Fin 32} {s : State} {f : Mirror → Mirror} (h : s.params.maxIc ≤ ic.val) :
    writeMirror ic s f = .refused .hostWriteRO := by
  simp [writeMirror, mirrorExists, Nat.not_lt.mpr h]

/-- A host read that answers a state delivers the value and changes nothing else. -/
theorem hostRead_eq_next {v : Host.Outcome Word Fault Refusal} {s t : State} :
    hostRead v s = .next t ↔ ∃ w, v = .next w ∧ t = s.setLastRead w := by
  simp [hostRead, andThen_eq_next, eq_comm (a := t)]

end Sys2Proof.Machine
end

