-- ==== Sys2Proof/Laws/PerInstr.lean ====
section
/-! SUPPORT. Laws/PerInstr: what holds of every instruction, one lemma each. `RequestWord` is about the word as R71 and
R73 lay it out: its op code is the instruction's and its reserved bits are 0. -/

namespace Sys2Proof.Laws.RequestWord

/-- The op field of the word is the instruction's op code, and `REQ[31:20]` is 0. -/
def Statement (i : Instr) : Prop := opField (encode i) = i.op ∧ reservedField (encode i) = 0

/-- Both fields of a word that R88 assembles. -/
theorem packReq_fields (n : BitVec 8) (reg kind op : BitVec 4) :
    opField (packReq n reg kind op) = op ∧ reservedField (packReq n reg kind op) = 0 := by
  constructor
  · ext i hi
    have n12 : i < 12 := by omega
    have r8 : i < 8 := by omega
    have whole : i < 32 := by omega
    simp [opField, packReq, hi, n12, r8, whole]
  · ext i hi
    simp [reservedField, packReq]
    refine ⟨⟨⟨?_, ?_⟩, ?_⟩, ?_⟩ <;> intros <;> apply BitVec.getLsbD_of_ge <;> omega

theorem pec15 : Statement .pec15 := packReq_fields _ _ _ _
theorem cmd : Statement .cmd := packReq_fields _ _ _ _
theorem write (n : BitVec 8) : Statement (.write n) := packReq_fields _ _ _ _
theorem read (n : BitVec 8) : Statement (.read n) := packReq_fields _ _ _ _
theorem wakeIdle (n : BitVec 8) : Statement (.wakeIdle n) := packReq_fields _ _ _ _
theorem wakeSleep (n : BitVec 8) : Statement (.wakeSleep n) := packReq_fields _ _ _ _
theorem initLimits (numStat : BitVec 4) : Statement (.initLimits numStat) := packReq_fields _ _ _ _
theorem wrgrp (kind : KindField) (reg : BitVec 4) (n : BitVec 8) : Statement (.wrgrp kind reg n) :=
  packReq_fields _ _ _ _
theorem rdgrp (kind : KindField) (reg : BitVec 4) (n : BitVec 8) : Statement (.rdgrp kind reg n) :=
  packReq_fields _ _ _ _

end Sys2Proof.Laws.RequestWord
end

