-- ==== Sys2Proof/Tests/Slice0.lean ====
section
/-! SUPPORT. Tests/Slice0: the spec's own vectors (95_test_vectors.md) on single steps, and for every obligation with
hypotheses a state and operands that meet them. The command codes and `CRC_COUNT = 0` are those of its section 0. -/

namespace Sys2Proof.Tests

open Sys2Proof.Machine

/- One theorem at a time: the package is compiled as one text, where too many at once run out of memory. -/
set_option Elab.async false

/-! ## Small states -/

/-- A machine of at most 2 ICs with some of the command codes of 93_implementation_defined.md part C. -/
def params : Params where
  maxIcPred := 1
  tIdleGap := 0
  cmdCodes := [((.single .cfga, .wr, 1), 0x0001), ((.single .cfga, .rd, 1), 0x0002), ((.multi .cv, .rd, 1), 0x0004)]
  hostMap := [(.rw .req, 0x00), (.ro .res, 0x10)]
  tReadyTimeout := 2000
  tSleepTimeout := 2000000

/-- Reset, with those parameters and a chain of two ICs, the first asleep, whose timeouts lower nothing. -/
def start : State :=
  { State.reset with
    params := params
    crcCount := Vector.replicate 10 0
    chain := { cond := [.sleep, .idle], draws := { plan := List.replicate 8 .ready, drawn := 0 } } }

/-- `start` with a command word and the environment's answers to the next exchanges. -/
def withCommand (c : Half) (answers : List Byte) : State :=
  { start with argCmd := .written c, bus := { start.bus with rx := { plan := answers, drawn := 0 } } }

/-- `start` with bytes in `BUF` from 0 up. -/
def withBuf (bytes : List Byte) : State := { start with buf := Memory.writeBytes [] 0 bytes }

/-- `start` with the flags of two ICs, their CFGA transmit mirrors, and the environment's answers. -/
def withMirrors (rev0 rev1 : Bool) (answers : List Byte) : State :=
  let tx0 : SingleMirror := { SingleMirror.reset with
    tx := #v[.written 0xF8, .written 0x00, .written 0x00, .written 0x00, .written 0x00, .written 0x00] }
  let tx1 : SingleMirror := { SingleMirror.reset with
    tx := #v[.written 0xF0, .written 0x11, .written 0x22, .written 0x33, .written 0x44, .written 0x55] }
  { start with
    mirrors := (start.mirrors.set 0 { Mirror.reset.set .cfga tx0 with isospiReverse := .written rev0 }).set 1
      { Mirror.reset.set .cfga tx1 with isospiReverse := .written rev1 }
    bus := { start.bus with rx := { plan := answers, drawn := 0 } } }

/-- The limits of L2.6, row 1. -/
def limits : Limits := { cellCh := 12, auxCh := 6, statCh := 4, numCv := 4, numGpio := 2, numStat := 2 }

/-- `withMirrors` with the limits set. -/
def withLimits (answers : List Byte) : State :=
  { withMirrors false false answers with lim := limits, limValid := true }

/-- The next state answered meets a check. -/
def nextIs (o : Host.Outcome State Fault Refusal) (p : State → Bool) : Bool :=
  match o with
  | .next t => p t
  | .fault _ => false
  | .refused _ => false

/-- The outcome is this refusal. -/
def refuses (o : Host.Outcome State Fault Refusal) (r : Refusal) : Bool :=
  match o with
  | .next _ => false
  | .fault _ => false
  | .refused q => decide (q = r)

/-- The outcome is the unwritten fault. -/
def faults (o : Host.Outcome State Fault Refusal) : Bool :=
  match o with
  | .next _ => false
  | .fault f => decide (f = .unwritten)
  | .refused _ => false

/-! ## Well-formedness: an ill-formed term for each check -/

theorem test_illformed_wrgrp_kind : (Instr.wrgrp (.reserved 0x2) 0 1).wf = false := by decide
theorem test_illformed_rdgrp_kind : (Instr.rdgrp (.reserved 0x9) 0 1).wf = false := by decide
theorem test_wellformed_reserved_kind : (Instr.rdgrp (.reserved 0xA) 0 1).wf = true := by decide

/-! ## Decoding: words written out bit by bit from R71 (REQ[31:20], N, REG, KIND, OP) -/

theorem test_decode_pec15 : decode 0b000000000000_00000000_0000_0000_0001 = .ok .pec15 := by decide
theorem test_decode_cmd : decode 0b000000000000_00000000_0000_0000_0010 = .ok .cmd := by decide
theorem test_decode_write : decode 0b000000000000_00000011_0000_0000_0011 = .ok (.write 3) := by decide
theorem test_decode_read : decode 0b000000000000_00000010_0000_0000_0100 = .ok (.read 2) := by decide
theorem test_decode_wake_idle : decode 0b000000000000_00000010_0000_0000_0101 = .ok (.wakeIdle 2) := by decide
theorem test_decode_wake_sleep : decode 0b000000000000_00100000_0000_0000_0110 = .ok (.wakeSleep 32) := by decide
theorem test_decode_init_limits : decode 0b000000000000_00000000_0010_0000_0111 = .ok (.initLimits 2) := by decide
theorem test_decode_wrgrp :
    decode 0b000000000000_00000010_0001_1000_1000 = .ok (.wrgrp (.named (.single .sctrla)) 1 2) := by decide
theorem test_decode_rdgrp :
    decode 0b000000000000_00000001_0101_0010_1001 = .ok (.rdgrp (.named (.multi .cv)) 5 1) := by decide
theorem test_encode_rdgrp : encode (.rdgrp (.named (.multi .cv)) 5 1) = 0x00001529 := by decide
/-- L2.9, L2.1: the first check that fails names the reason. -/
theorem test_decode_refusals :
    decode 0x00100000 = .error .reservedBits ∧ decode 0x00000000 = .error .reservedOp ∧
    decode 0x0000000A = .error .reservedOp ∧ decode 0x00001001 = .error .unusedField ∧
    decode 0x00001103 = .error .unusedField := by decide
theorem test_asm_wrgrp : (Pseudo.expand (.wrcfga 2)).asm = some "WRGRP CFGA, 0, 2" := by decide

/-! ## PEC15 (L2.1) -/

theorem test_pec15_command :
    nextIs (exec .pec15 { withBuf [0x00, 0x01] with argLen := .written 2 }) (fun t => decide (t.res = .written 0x3D6E)) =
      true := by decide +kernel
theorem test_pec15_cell_codes :
    nextIs (exec .pec15 { withBuf [0xE8, 0x03, 0xD0, 0x07, 0xB8, 0x0B] with argLen := .written 6 })
      (fun t => decide (t.res = .written 0xDE60)) = true := by decide +kernel

/-! ## CMD, WRITE and READ (L2.2 to L2.4) -/

theorem test_cmd_trace :
    nextIs (exec .cmd (withCommand 0xFFFF [1, 2, 3, 4])) (fun t => decide (t.bus.trace =
      [.csLow, .xfer 0xFF 1, .xfer 0xFF 2, .xfer 0x16 3, .xfer 0x44 4, .csHigh])) = true := by decide +kernel
theorem test_cmd_unwritten : faults (exec .cmd start) = true := by decide +kernel
theorem test_write_sends_group_1_first :
    nextIs (exec (.write 2) { withCommand 0x0024 (List.replicate 20 0) with
      buf := Memory.writeBytes [] 0 [0xA0, 0xA1, 0xA2, 0xA3, 0xA4, 0xA5, 0xA6, 0xA7, 0xA8, 0xA9, 0xAA, 0xAB] })
      (fun t => decide (sentBytes t.bus.trace = [0x00, 0x24, 0xB1, 0x9E, 0xA6, 0xA7, 0xA8, 0xA9, 0xAA, 0xAB, 0x72, 0x30,
        0xA0, 0xA1, 0xA2, 0xA3, 0xA4, 0xA5, 0x24, 0x28])) = true := by decide +kernel
theorem test_write_no_ic : refuses (exec (.write 0) (withCommand 0x0001 [])) .chainSize = true := by decide +kernel
theorem test_read_good :
    nextIs (exec (.read 1) (withCommand 0x0002 [9, 9, 9, 9, 0, 0, 0, 0, 0, 0, 0xC2, 0x12]))
      (fun t => decide (t.res = .written 0x0000 ∧ Memory.read t.rxbuf 6 = some 0xC2)) = true := by decide +kernel
theorem test_read_bad :
    nextIs (exec (.read 1) (withCommand 0x0002 [9, 9, 9, 9, 0, 0, 0, 0, 0, 1, 0xC2, 0x12]))
      (fun t => decide (t.res = .written 0xFFFF ∧ Memory.read t.rxbuf 8 = none)) = true := by decide +kernel

/-! ## WAKE_IDLE and WAKE_SLEEP (L2.5) -/

theorem test_wake_idle_trace :
    nextIs (exec (.wakeIdle 2) { start with bus := { start.bus with rx := { plan := [7, 8], drawn := 0 } } })
      (fun t => decide (t.bus.trace = [.csLow, .xfer 0xFF 7, .csHigh, .csLow, .xfer 0xFF 8, .csHigh])) = true := by
  decide +kernel
/-- From [SLEEP, IDLE], whatever the draw for the sleeping IC: here it is drawn IDLE. -/
theorem test_wake_idle_chain :
    nextIs (exec (.wakeIdle 2) { start with chain := { start.chain with draws := { plan := [.idle, .sleep], drawn := 0 } } })
      (fun t => decide (t.chain.cond = [.idle, .ready])) = true := by decide +kernel
theorem test_wake_sleep_trace :
    nextIs (exec (.wakeSleep 1) start)
      (fun t => decide (t.bus.trace = [.csLow, .delay 300, .csHigh, .delay 10])) = true := by decide +kernel
theorem test_wake_sleep_chain :
    nextIs (exec (.wakeSleep 2) { start with chain := { start.chain with draws := { plan := [.sleep, .sleep], drawn := 0 } } })
      (fun t => decide (t.chain.cond = [.ready, .ready])) = true := by decide +kernel

/-! ## INIT_LIMITS, WRGRP and RDGRP (L2.6 to L2.8) -/

theorem test_init_limits_loads :
    nextIs (exec (.initLimits 2) { start with argLim := .written 0x2404060C })
      (fun t => decide (t.lim = limits ∧ t.limValid = true)) = true := by decide +kernel
theorem test_init_limits_too_many_cells :
    refuses (exec (.initLimits 2) { start with argLim := .written 0x2404060D }) .limitsRange = true := by decide +kernel
theorem test_wrgrp_reversed :
    nextIs (exec (.wrgrp (.named (.single .cfga)) 0 2) (withMirrors true true (List.replicate 20 0)))
      (fun t => decide (sentBytes t.bus.trace = [0x00, 0x01, 0x3D, 0x6E, 0xF8, 0x00, 0x00, 0x00, 0x00, 0x00, 0xBE, 0xE2,
        0xF0, 0x11, 0x22, 0x33, 0x44, 0x55, 0xB6, 0x9C] ∧ Memory.read t.buf 0 = some 0xF0 ∧
        Memory.read t.buf 6 = some 0xF8)) = true := by decide +kernel
theorem test_wrgrp_flags_differ :
    refuses (exec (.wrgrp (.named (.single .cfga)) 0 2) (withMirrors false true [])) .reverseMismatch = true := by
  decide +kernel
theorem test_rdgrp_cell_codes :
    nextIs (exec (.rdgrp (.named (.multi .cv)) 1 1)
      (withLimits [9, 9, 9, 9, 0xE8, 0x03, 0xD0, 0x07, 0xB8, 0x0B, 0xDE, 0x60]))
      (fun t => decide (((t.mirror 0).cv.cCodes[0], (t.mirror 0).cv.cCodes[1], (t.mirror 0).cv.cCodes[2]) =
        (.written 1000, .written 2000, .written 3000) ∧ (t.mirror 0).cv.pecErr[0] = .written false ∧
        t.res = .written 0)) = true := by decide +kernel
theorem test_rdgrp_absent_ic :
    nextIs (exec (.rdgrp (.named (.single .cfga)) 0 1) (withMirrors false false (List.replicate 12 0xFF)))
      (fun t => decide (((t.mirror 0).get .cfga).pecErr = .written true ∧ t.crc (.single .cfga) = 1 ∧
        t.res = .written 0xFFFF)) = true := by decide +kernel

/-! ## The host port and the step -/

/-- P5: from reset, reading cell voltages faults on `LIM`; here with one mirror set's flag unwritten too. -/
theorem test_rdgrp_before_limits : faults (exec (.rdgrp (.named (.multi .cv)) 0 1) start) = true := by decide +kernel
theorem test_host_write_result :
    refuses (hostAccess (.writeRo .res) start) .hostWriteRO = true := by decide
/-- R31, R43: each limit at its own place, and a flag as 1. -/
theorem test_host_reads_limits :
    nextIs (hostAccess (.readRo (.lim .auxCh)) (withLimits [])) (fun t => decide (t.lastRead = some 6)) = true ∧
    nextIs (hostAccess (.readRo .limValid) (withLimits [])) (fun t => decide (t.lastRead = some 1)) = true := by
  decide +kernel
/-- Of two ICs, a third has no mirror set (log 12). -/
theorem test_host_absent_mirror :
    refuses (hostAccess (.write (.tx 2 .cfga 0 1)) start) .hostWriteRO = true ∧
    faults (hostAccess (.readRo (.pecErr 2 .cfga)) start) = true := by decide +kernel
theorem test_host_address : params.hostAddress (.ro .res) = 0x10 := by decide
theorem test_host_reads_rom :
    nextIs (hostAccess (.readRo (.rom 0x01)) start) (fun t => decide (t.lastRead = some 0xC599)) = true := by
  decide +kernel
/-- A request placed where the step fetches it runs as the first thing after reset, whatever `MAX_IC` is. -/
theorem test_fetch_word_runs_after_reset :
    nextIs (step (State.reset.withFetchWord 32 0x00001006))
      (fun t => decide (t.bus.trace = [.csLow, .delay 300, .csHigh, .delay 10])) = true := by decide +kernel
/-- P4: after a refused request the host goes on. -/
theorem test_run_goes_on_past_refusal :
    nextIs (runHost 2 (start.setHost [.request 0x00100006, .request 0x00001006]))
      (fun t => decide (t.req = .written 0x00001006 ∧ t.bus.trace.length = 4)) = true := by decide +kernel

/-! ## Witnesses: for each obligation with hypotheses, a state and operands that meet them all -/

/-- The outcome is a next state. -/
def completes (o : Host.Outcome State Fault Refusal) : Bool := nextIs o fun _ => true

theorem next_of_completes {o : Host.Outcome State Fault Refusal} (h : completes o = true) : ∃ t, o = .next t := by
  cases o with
  | next t => exact ⟨t, rfl⟩
  | fault f => simp [completes, nextIs] at h
  | refused r => simp [completes, nextIs] at h

theorem witness_DecodeEncodeRoundTrip : (Instr.rdgrp (.named (.multi .cv)) 15 255).wf = true := by decide
theorem witness_EncodeDecodeRoundTrip : decode 0x000FFF9 = .ok (.rdgrp (.reserved 0xF) 0xF 0xF) := by decide
theorem witness_ReservedBitsAreRefused :
    start.seq = .idle ∧ (start.setHost [.request 0x80000001]).host = [.request 0x80000001] ∧
    (0x80000001 : Word).extractLsb' 20 12 ≠ 0 := by decide +kernel
/-- One word for each clause, the op codes at the ends of their ranges among them. -/
theorem witness_RequestCheckOrder :
    start.seq = .idle ∧ (start.setHost [.request 0x0000000F]).host = [.request 0x0000000F] ∧
    reservedField 0xF = 0 ∧ reservedField 0x1007 = 0 ∧ opField 0x0 = 0 ∧ 10 ≤ (opField 0xA).toNat ∧ 10 ≤ (opField 0xF).toNat ∧
    (opField 0x00001001 = 1 ∧ nField 0x00001001 ≠ 0) ∧ (opField 0x12 = 2 ∧ kindField 0x12 ≠ 0) ∧
    (opField 0x13 = 3 ∧ kindField 0x13 ≠ 0) ∧ (opField 0x106 = 6 ∧ regField 0x106 ≠ 0) ∧
    (opField 0x17 = 7 ∧ kindField 0x17 ≠ 0) ∧ (opField 0x1007 = 7 ∧ nField 0x1007 ≠ 0) := by decide +kernel
theorem witness_StepRunsTheDecodedRequest :
    start.seq = .idle ∧ (start.setHost [.request 0x00001006]).host = [.request 0x00001006] ∧
    decode 0x00001006 = .ok (.wakeSleep 1) ∧
    (start.setHost [.port (.readRw .argCmd)]).host = [.port (.readRw .argCmd)] := by decide +kernel
theorem witness_BlockWaitsForTheHost : start.host = [] := by decide +kernel
theorem witness_BusyBlockRefusesAccess :
    { start with seq := .busy, host := [.port (.readRo .res)] }.seq = .busy ∧
    { start with seq := .busy, host := [.port (.readRo .res)] }.host = [.port (.readRo .res)] := by decide +kernel
theorem witness_RefusedAccessHasNoEffect :
    (start.setHost [.request 0x00100006]).host = .request 0x00100006 :: [] ∧
    refuses (step (start.setHost [.request 0x00100006])) .reservedBits = true := by decide +kernel
theorem witness_PecChangesWithEveryBit : 1 < [0x00#8, 0x01#8].length := by decide
theorem witness_ReceivedGroupIsBadOnPecMismatch : (#v[0, 0, 0, 0, 0, 0, 0xC2, 0x13] : Group)[7].getLsbD 0 = true := by decide

/-- Operands of two bytes, and of none. -/
theorem witness_Pec15PutsThePecInRes :
    ({ withBuf [0x00, 0x01] with argLen := .written 2 }.argLen = .written 2 ∧ [0x00#8, 0x01#8].length = (2#8).toNat ∧
      holdsBytes (withBuf [0x00, 0x01]).buf 0 [0x00#8, 0x01#8]) ∧
    { start with argLen := .written 0 }.argLen = .written 0 ∧ ([] : List Byte).length = (0#8).toNat ∧
    holdsBytes start.buf 0 ([] : List Byte) := by decide +kernel
theorem witness_Pec15FaultsOnUnwrittenOperands :
    start.argLen = .unwritten ∧ { withBuf [7] with argLen := .written 2 }.argLen = .written 2 ∧ 1 < (2#8).toNat ∧
    Memory.read (withBuf [7]).buf 1 = none := by decide +kernel
theorem witness_Pec15IgnoresBytesPastLen :
    { withBuf [0x00, 0x01] with argLen := .written 2 }.argLen = .written 2 ∧
    ∀ i < (2#8).toNat, Memory.read [(0, 0x00), (1, 0x01), (2, 0x09)] i = Memory.read (withBuf [0x00, 0x01]).buf i := by
  decide +kernel
theorem witness_Pec15IsIdempotent : ∃ t, exec .pec15 { withBuf [0x00, 0x01] with argLen := .written 2 } = .next t :=
  next_of_completes (by decide +kernel)

/-- `N = 0`, `N` just above `MAX_IC`, and a word for each op code that does not use `N`. -/
theorem witness_ChainSizeIsChecked :
    ¬ goodSize 0 start ∧ ¬ goodSize 3 start ∧
    (reservedField 0x00001001 = 0 ∧ opField 0x00001001 = 1 ∧ nField 0x00001001 ≠ 0) ∧
    (reservedField 0x000FF002 = 0 ∧ opField 0x000FF002 = 2 ∧ nField 0x000FF002 ≠ 0) ∧
    (reservedField 0x00001007 = 0 ∧ opField 0x00001007 = 7 ∧ nField 0x00001007 ≠ 0) := by decide +kernel
theorem witness_CmdSendsTheCommandFrame : (withCommand 0x0001 []).argCmd = .written 0x0001 := by decide +kernel
/-- At the largest `N` of this machine. -/
theorem witness_WriteSendsTheLastGroupFirst :
    goodSize 2 start ∧ (withCommand 0x0001 []).argCmd = .written 0x0001 ∧
    [[0, 1, 2, 3, 4, 5], [6, 7, 8, 9, 10, 11]].length = (2#8).toNat ∧
    (∀ p (h : p < [[0#8, 1, 2, 3, 4, 5], [6, 7, 8, 9, 10, 11]].length),
      [[0#8, 1, 2, 3, 4, 5], [6, 7, 8, 9, 10, 11]][p].length = 6 ∧
      holdsBytes (withBuf [0, 1, 2, 3, 4, 5, 6, 7, 8, 9, 10, 11]).buf (6 * p)
        [[0#8, 1, 2, 3, 4, 5], [6, 7, 8, 9, 10, 11]][p]) := by decide +kernel
theorem witness_ReadStoresWhatItReceives :
    goodSize 1 start ∧ goodSize 2 start ∧ (withCommand 0x0002 []).argCmd = .written 0x0002 := by decide +kernel
theorem witness_ReadReceivesTheEnvironmentsBytes :
    [9#8, 9, 9, 9].length = 4 ∧ [0#8, 0, 0, 0, 0, 0, 0xC2, 0x12].length = 8 * (1#8).toNat ∧
    (withCommand 0x0002 [9, 9, 9, 9, 0, 0, 0, 0, 0, 0, 0xC2, 0x12, 5]).bus.rx.plan =
      [9, 9, 9, 9] ++ ([0, 0, 0, 0, 0, 0, 0xC2, 0x12] ++ [5]) ∧
    completes (exec (.read 1) (withCommand 0x0002 [9, 9, 9, 9, 0, 0, 0, 0, 0, 0, 0xC2, 0x12, 5])) = true := by
  decide +kernel
theorem witness_TransactionsFaultOnUnwrittenOperands :
    start.argCmd = .unwritten ∧ goodSize 2 start ∧ (withCommand 0x0001 []).argCmd = .written 0x0001 ∧
    11 < 6 * (2#8).toNat ∧ Memory.read (withCommand 0x0001 []).buf 11 = none := by decide +kernel

theorem witness_WakeIdlePulsesEveryPosition : goodSize 1 start ∧ goodSize 2 start := by decide +kernel
theorem witness_WakeSleepHoldsCsbLow : goodSize 1 start ∧ goodSize 2 start := by decide +kernel
/-- `start` with a chain of two ICs in these conditions, and the draws to come. -/
def withChain (cond drawn : List Cond) : State := { withCommand 0x0001 (List.replicate 20 0) with
  chain := { cond := cond, draws := { plan := drawn, drawn := 0 } } }
theorem witness_WakeIdleMakesIdleIcsReady :
    (∃ t, exec (.wakeIdle 2) (withChain [.ready, .idle] [.sleep, .sleep]) = .next t) ∧ 1 < (2#8).toNat ∧
    (withChain [.ready, .idle] [.sleep, .sleep]).chain.cond[1]? = some .idle :=
  ⟨next_of_completes (by decide +kernel), by decide, by decide +kernel⟩
theorem witness_WakeSleepMakesEveryIcReady :
    (∃ t, exec (.wakeSleep 2) (withChain [.sleep, .idle] [.sleep, .sleep]) = .next t) ∧ 1 < (2#8).toNat ∧
    1 < (withChain [.sleep, .idle] [.sleep, .sleep]).chain.cond.length :=
  ⟨next_of_completes (by decide +kernel), by decide, by decide +kernel⟩
/-- Position 0 asleep below `N`, position 1 at `N`. -/
theorem witness_WakesLeaveTheRestToTheEnvironment :
    (∃ t, exec (.wakeIdle 1) (withChain [.sleep, .ready] [.idle, .sleep]) = .next t) ∧
    (∃ t, exec (.wakeSleep 1) (withChain [.sleep, .ready] [.idle, .sleep]) = .next t) ∧
    (withChain [.sleep, .ready] [.idle, .sleep]).chain.cond[0]? = some .sleep ∧
    (withChain [.sleep, .ready] [.idle, .sleep]).chain.cond[1]? = some .ready ∧
    (withChain [.sleep, .ready] [.idle, .sleep]).chain.draws.plan[1]? = some .sleep ∧ (1#8).toNat ≤ 1 :=
  ⟨next_of_completes (by decide +kernel), next_of_completes (by decide +kernel), by decide +kernel, by decide +kernel,
    by decide +kernel, by decide⟩
theorem witness_OnlyWakesRaiseACondition :
    (∃ t, exec .cmd (withChain [.ready, .idle] [.idle, .idle]) = .next t) ∧
    (∀ n, Instr.cmd ≠ .wakeIdle n) ∧ (∀ n, Instr.cmd ≠ .wakeSleep n) ∧
    (∃ t, step ((withChain [.ready, .idle] [.idle, .idle]).setHost [.port (.readRw .argCmd)]) = .next t) ∧
    ∀ w rest, [HostAccess.port (.readRw .argCmd)] ≠ .request w :: rest :=
  ⟨next_of_completes (by decide +kernel), nofun, nofun, next_of_completes (by decide +kernel), nofun⟩

/-- Every limit at the top of its range, and every one at the bottom. -/
theorem witness_InitLimitsLoadsTheLimits :
    ({ start with argLim := .written 0x46040912 }.limValid = false ∧
      { start with argLim := .written 0x46040912 }.argLim = .written 0x46040912) ∧
    limitsOk (limitsOf 0x46040912 2) = true ∧ limitsOk (limitsOf 0x11000000 1) = true := by decide +kernel
theorem witness_InitLimitsStops :
    (withLimits []).limValid = true ∧ (start.limValid = false ∧ start.argLim = .unwritten) ∧
    (start.setArgLim 0x46040913).limValid = false ∧ (start.setArgLim 0x46040913).argLim = .written 0x46040913 ∧
    18 < (BitVec.extractLsb' 0 8 (0x46040913 : Word)).toNat ∧ 9 < (BitVec.extractLsb' 8 8 (0x46040A12 : Word)).toNat ∧
    4 < (BitVec.extractLsb' 16 8 (0x46050912 : Word)).toNat ∧ BitVec.extractLsb' 24 4 (0x40040900 : Word) = 0 ∧
    6 < (BitVec.extractLsb' 24 4 (0x47040912 : Word)).toNat ∧ BitVec.extractLsb' 28 4 (0x06040912 : Word) = 0 ∧
    4 < (BitVec.extractLsb' 28 4 (0x56040912 : Word)).toNat ∧ 2 < (3#4).toNat ∧
    3 * (BitVec.extractLsb' 24 4 (0x2404060D : Word)).toNat < (BitVec.extractLsb' 0 8 (0x2404060D : Word)).toNat := by
  decide +kernel
theorem witness_LimitsNeverChangeOnceSet :
    (withLimits []).limValid = true ∧ ∃ t, step ((withLimits []).setHost [.port (.write (.argLim 0))]) = .next t :=
  ⟨by decide +kernel, next_of_completes (by decide +kernel)⟩

/-- The data of the transmit mirrors of `withMirrors`. -/
def data (ic : Nat) : List Byte :=
  if ic = 0 then [0xF8, 0x00, 0x00, 0x00, 0x00, 0x00] else [0xF0, 0x11, 0x22, 0x33, 0x44, 0x55]
/-- For both chain directions, at both values of `REG`. -/
theorem witness_WrgrpSendsTheTransmitMirrors :
    goodSize 2 start ∧ (0#4).toNat ≤ 1 ∧ (1#4).toNat ≤ 1 ∧ sameFlags (withMirrors false false []) 2 false ∧
    sameFlags (withMirrors true true []) 2 true ∧ holdsTx (withMirrors false false []) .cfga 2 data ∧
    holdsTx (withMirrors true true []) .cfga 2 data := by decide +kernel
theorem witness_WrgrpStops :
    goodSize 2 start ∧ (∀ k, KindField.named (.multi .cv) ≠ .named (.single k)) ∧
    (∀ k, KindField.reserved 0xF ≠ .named (.single k)) ∧ 1 < (2#4).toNat ∧ (1#4).toNat ≤ 1 ∧
    sameFlags (withMirrors true true []) 2 true ∧ 1 < (2#8).toNat ∧
    (((withMirrors true true []).mirror 1).get .comm).tx[(5 : Fin 6)] = .unwritten :=
  ⟨by decide +kernel, nofun, nofun, by decide, by decide, by decide +kernel, by decide, by decide +kernel⟩
/-- `start` with the flag of `M[0]` alone written. -/
def oneFlag : State :=
  start.setMirrors (start.mirrors.set 0 { Mirror.reset with isospiReverse := .written true })
/-- Both disjuncts; `M[0]` unwritten; `M[1]` differing, and unwritten after a written `M[0]`. -/
theorem witness_ReverseFlagsAreChecked :
    goodSize 2 (withLimits []) ∧
    (∃ k, Instr.wrgrp (.named (.single .cfga)) 1 2 = .wrgrp (.named (.single k)) 1 2 ∧ (1#4).toNat ≤ 1) ∧
    (∃ k, Instr.rdgrp (.named (.multi .cv)) 4 2 = .rdgrp (.named k) 4 2 ∧ selectable k 4 (withLimits [])) ∧
    (start.mirror 0).isospiReverse = .unwritten ∧ 0 < 1 ∧ 1 < (2#8).toNat ∧
    sameFlags (withMirrors false true []) 1 false ∧
    ((withMirrors false true []).mirror 1).isospiReverse = .written (!false) ∧
    sameFlags oneFlag 1 true ∧ (oneFlag.mirror 1).isospiReverse = .unwritten :=
  ⟨by decide +kernel, ⟨.cfga, rfl, by decide⟩, ⟨.multi .cv, rfl, by unfold selectable; decide +kernel⟩, by decide +kernel,
    by decide, by decide, by decide +kernel, by decide +kernel, by decide +kernel, by decide +kernel⟩
theorem witness_RdgrpFillsTheReceiveMirrors :
    goodSize 2 (withMirrors true true []) ∧ (0#4).toNat ≤ 1 ∧ (1#4).toNat ≤ 1 ∧
    sameFlags (withMirrors true true []) 2 true ∧ sameFlags (withMirrors false false []) 2 false := by decide +kernel
/-- `withLimits` with one status group. -/
def oneStatGroup : State := { withLimits [] with lim := { limits with numStat := 1 } }
/-- Every group, and the last one alone; groups selected and not; a limit of 1. -/
theorem witness_RdgrpReadsEverySelectedGroup :
    goodSize 2 (withLimits []) ∧ (withLimits []).limValid = true ∧ (0#4).toNat ≤ groupLimit .cv (withLimits []).lim ∧
    (4#4).toNat ≤ groupLimit .cv (withLimits []).lim ∧ (2#4).toNat ≤ groupLimit .stat (withLimits []).lim ∧
    sameFlags (withLimits []) 2 false ∧ 1 ∉ selected (.multi .aux) 2 (withLimits []) ∧
    selected (.multi .aux) 0 (withLimits []) = [1, 2] ∧
    goodSize 2 oneStatGroup ∧ oneStatGroup.limValid = true ∧ (1#4).toNat ≤ groupLimit .stat oneStatGroup.lim ∧
    selected (.multi .stat) 0 oneStatGroup = [1] ∧ sameFlags oneStatGroup 2 false := by decide +kernel
/-- The last group the limits allow is read; the first one, and one above the limits, are not. -/
theorem witness_RdgrpDecodesTheCellCodes :
    (∃ t, exec (.rdgrp (.named (.multi .cv)) 4 1) (withLimits (List.replicate 12 0)) = .next t) ∧ 0 < (1#8).toNat ∧
    4 ∈ selected (.multi .cv) 4 (withLimits []) ∧ 1 ∉ selected (.multi .cv) 4 (withLimits []) ∧
    6 ∉ selected (.multi .cv) 4 (withLimits []) :=
  ⟨next_of_completes (by decide +kernel), by decide, by decide +kernel, by decide +kernel, by decide +kernel⟩
theorem witness_RdgrpStops :
    goodSize 2 start ∧ 1 < (2#4).toNat ∧ start.limValid = false ∧ goodSize 2 (withLimits []) ∧
    (withLimits []).limValid = true ∧ groupLimit .cv (withLimits []).lim < (5#4).toNat ∧
    groupLimit .aux (withLimits []).lim < (3#4).toNat := by decide +kernel
theorem witness_MirrorsAtNAndAboveAreUntouched :
    (∃ t, exec (.rdgrp (.named (.single .cfga)) 0 1) (withMirrors false true (List.replicate 12 0)) = .next t) ∧
    chainLength (.rdgrp (.named (.single .cfga)) 0 1) ≤ 1 ∧
    ∀ ic < chainLength (.rdgrp (.named (.single .cfga)) 0 1),
      (withMirrors false false []).mirrors[ic]? = (withMirrors false true []).mirrors[ic]? :=
  ⟨next_of_completes (by decide +kernel), by decide, by decide +kernel⟩
theorem witness_StatusIsWrittenOnlyWhereStated :
    (∃ t, exec (.write 1) { withCommand 0x0001 (List.replicate 12 0) with buf := (withBuf [1, 2, 3, 4, 5, 6]).buf } =
      .next t) ∧ (∀ kind reg n, Instr.write 1 ≠ .rdgrp kind reg n) ∧ writesRes (.write 1) = false :=
  ⟨next_of_completes (by decide +kernel), nofun, by decide⟩

/-- Two ICs with empty stores, both command words of CFGA decoding to register 0. -/
def ref : RefChain := { stores := [[], []], dec := [(0x0001, (0, .wr)), (0x0002, (0, .rd))] }
theorem witness_WriteThenReadRoundTrip :
    goodSize 2 start ∧ (0#4).toNat ≤ 1 ∧ (1#4).toNat ≤ 1 ∧ sameFlags (withMirrors true true []) 2 true ∧
    holdsTx (withMirrors true true []) .cfga 2 data ∧ sameFlags (withMirrors false false []) 2 false ∧
    holdsTx (withMirrors false false []) .cfga 2 data ∧ ref.stores.length = (2#8).toNat ∧
    lookupKey ref.dec (params.cmdCode (.single .cfga) .wr 1) = some (0, .wr) ∧
    lookupKey ref.dec (params.cmdCode (.single .cfga) .rd 1) = some (0, .rd) ∧ [0#8, 0, 0, 0].length = 4 := by
  decide +kernel

/-- A state that meets the invariant: limits set, bytes in `BUF`, a span in the trace, a request to come. -/
def mid : State := { withLimits (List.replicate 12 0) with
  buf := (withBuf [1, 2, 3]).buf
  bus := { csb := true, trace := [.csLow, .xfer 1 2, .csHigh, .delay 10], rx := { plan := List.replicate 12 0, drawn := 3 } }
  host := [.request 0x00001129] }
theorem mid_inv : Inv mid where
  rom := by decide +kernel
  idle := by decide +kernel
  csbHigh := by decide +kernel
  discipline := by decide +kernel
  bufWf := by decide +kernel
  rxbufWf := by decide +kernel
  limits := by decide +kernel
  undecodedMirrors ic := by
    have below : ∀ j < 32, undecoded (mid.mirror j) := by unfold undecoded; decide +kernel
    by_cases h : ic < 32
    · exact below ic h
    · have : mid.mirror ic = Mirror.reset := by
        simp [State.mirror, Vector.getElem?_eq_none (xs := mid.mirrors) (i := ic) (by simpa using h)]
      rw [this]; unfold undecoded; decide
theorem witness_StepKeepsTheInvariant : Inv mid ∧ ∃ t, step mid = .next t :=
  ⟨mid_inv, next_of_completes (by decide +kernel)⟩
theorem witness_ResetLeavesEverythingUnwritten : mid.rom = Config.pecTable ∧ ∃ t, step mid = .next t :=
  ⟨mid_inv.rom, next_of_completes (by decide +kernel)⟩
theorem witness_TraceGrowsByWholeSpans : (∃ t, step mid = .next t) ∧ mid.bus.csb = true :=
  ⟨next_of_completes (by decide +kernel), by decide +kernel⟩
theorem witness_OperationTraceIsBounded :
    ∃ t, exec (.rdgrp (.named (.multi .cv)) 0 2) (withLimits (List.replicate 80 0)) = .next t :=
  next_of_completes (by decide +kernel)
theorem witness_StepKeepsRomAndParameters : ∃ t, step mid = .next t := next_of_completes (by decide +kernel)
theorem witness_FrameOfRegisterOperations :
    (∃ t, exec .pec15 { withBuf [0x00, 0x01] with argLen := .written 2 } = .next t) ∧
    ∃ t, exec (.initLimits 2) (start.setArgLim 0x2404060C) = .next t :=
  ⟨next_of_completes (by decide +kernel), next_of_completes (by decide +kernel)⟩
theorem witness_FrameOfSendingOperations :
    (∃ t, exec .cmd (withCommand 0x0001 [0, 0, 0, 0]) = .next t) ∧
    (∃ t, exec (.write 1) { withCommand 0x0001 (List.replicate 12 0) with buf := (withBuf [1, 2, 3, 4, 5, 6]).buf } =
      .next t) ∧
    (∃ t, exec (.wakeIdle 2) (withCommand 0x0001 [0, 0]) = .next t) ∧ ∃ t, exec (.wakeSleep 2) start = .next t :=
  ⟨next_of_completes (by decide +kernel), next_of_completes (by decide +kernel), next_of_completes (by decide +kernel),
    next_of_completes (by decide +kernel)⟩
theorem witness_FrameOfStoringOperations :
    (∃ t, exec (.read 2) (withCommand 0x0001 (List.replicate 20 0)) = .next t) ∧
    (∃ t, exec (.wrgrp (.named (.single .cfga)) 0 2) (withMirrors true true (List.replicate 20 0)) = .next t) ∧
    ∃ t, exec (.rdgrp (.named (.multi .cv)) 4 2) (withLimits (List.replicate 20 0)) = .next t :=
  ⟨next_of_completes (by decide +kernel), next_of_completes (by decide +kernel), next_of_completes (by decide +kernel)⟩

/-- A register of the block, mirrors of the last IC there is, and one of the first there is not. -/
theorem witness_HostWriteReadsBack :
    namesMirror (.buf 255 7) start ∧ namesMirror (.isospiReverse 1 true) start ∧ namesMirror (.tx 1 .pwmb 5 9) start ∧
    ¬ namesMirror (.tx 2 .pwmb 5 9) start ∧
    (∃ t, hostAccess (.write (.buf 255 7)) start = .next t) ∧
    ∃ t, hostAccess (.write (.tx 1 .pwmb 5 9)) start = .next t :=
  ⟨by unfold namesMirror; decide, by unfold namesMirror; decide +kernel, by unfold namesMirror; decide +kernel,
    by unfold namesMirror; decide +kernel, next_of_completes (by decide +kernel), next_of_completes (by decide +kernel)⟩
theorem witness_ReadOnlyRegistersRefuseWrites :
    start.seq = .idle ∧ (start.setHost [.port (.writeRo (.rom 255))]).host = [.port (.writeRo (.rom 255))] := by
  decide +kernel
/-- A read that delivers and one that faults, limits set and not, the last mirror set there is and the first there is
not. -/
theorem witness_HostReadDeliversTheRegister :
    readRwValue .argCmd (withCommand 0x0001 []) = .next 0x0001 ∧ readRoValue (.rom 0x01) start = .next 0xC599 ∧
    readRwValue .argLen start = .fault .unwritten ∧ readRoValue .res start = .fault .unwritten ∧
    start.limValid = false ∧ (withLimits []).limValid = true ∧ (1 : Fin 32).val < start.params.maxIc ∧
    mirrorSetOf (.rw (.isospiReverse 2)) = some 2 ∧ mirrorSetOf (.ro (.thsd 2)) = some 2 ∧
    start.params.maxIc ≤ (2 : Fin 32).val :=
  ⟨by rfl, by rfl, by rfl, by rfl, by decide +kernel, by decide +kernel, by decide +kernel, rfl, rfl, by decide +kernel⟩
theorem witness_RequestWordReadsBack :
    (start.setHost [.request 0x00001006]).host = .request 0x00001006 :: [] ∧
    ∃ t, step (start.setHost [.request 0x00001006]) = .next t :=
  ⟨by rfl, next_of_completes (by decide +kernel)⟩
theorem witness_UnwrittenRegistersFaultAfterReset :
    (∀ k, RwReg.buf 255 ≠ .crcCount k) ∧ RoReg.res ≠ .limValid ∧ (∀ a, RoReg.res ≠ .rom a) :=
  ⟨nofun, by decide, nofun⟩
theorem witness_UndecodedFieldsAlwaysFault : Inv mid := mid_inv

end Sys2Proof.Tests
end

/-! The proofs of the statements about the state (10_state.md). First what the operations, the host port and a whole
step leave alone; then the invariant, one lemma for each part of the state that is updated; then the two
noninterference statements; last what the host reads. -/

/-! ## What operations, host accesses and steps leave alone -/

section
namespace Sys2Proof.Machine

/-- What an operation that takes the state `s` to `t` leaves alone. -/
structure OpFrame (i : Instr) (s t : State) : Prop where
  rom : t.rom = s.rom
  req : t.req = s.req
  seq : t.seq = s.seq
  params : t.params = s.params
  chainSize : t.chain.cond.length = s.chain.cond.length
  limits : s.limValid = true → t.lim = s.lim ∧ t.limValid = true
  mirrors : (∀ kind reg n, i ≠ .rdgrp kind reg n) → t.mirrors = s.mirrors
  crcCount : (∀ kind reg n, i ≠ .rdgrp kind reg n) → t.crcCount = s.crcCount
  res : writesRes i = false → t.res = s.res

/-- Every operation that completes has the frame of its kind (R30, R31, R37, R41). -/
theorem exec_frame {i : Instr} {s t : State} (h : exec i s = .next t) : OpFrame i s t := by
  cases i with
  | pec15 =>
    obtain ⟨data, -, rfl⟩ := execPec15_eq_next.mp h
    constructor <;> simp [writesRes]
  | cmd =>
    obtain ⟨c, -, rfl⟩ := execCmd_eq_next.mp h
    constructor <;> simp
  | write n =>
    obtain ⟨-, c, groups, -, -, rfl⟩ := execWrite_eq_next.mp h
    constructor <;> simp
  | read n =>
    obtain ⟨-, c, -, rfl⟩ := execRead_eq_next.mp h
    constructor <;> simp [writesRes]
  | wakeIdle n =>
    obtain ⟨-, rfl⟩ := execWakeIdle_eq_next.mp h
    constructor <;> simp
  | wakeSleep n =>
    obtain ⟨-, rfl⟩ := execWakeSleep_eq_next.mp h
    constructor <;> simp
  | initLimits numStat =>
    obtain ⟨unset, v, -, -, rfl⟩ := execInitLimits_eq_next.mp h
    constructor <;> simp [unset]
  | wrgrp kind reg n =>
    obtain ⟨-, k, rev, groups, -, -, -, -, rfl⟩ := execWrgrp_eq_next.mp h
    constructor <;> simp
  | rdgrp kind reg n =>
    obtain ⟨-, k, gs, rev, -, -, -, rfl⟩ := execRdgrp_eq_next.mp h
    obtain ⟨bus, rxbuf, mirrors, counts, eq⟩ := readGroups_frame k n.toNat rev gs s
    rw [eq]
    constructor <;> simp [writesRes]

/-- What a host access that starts no operation leaves alone. -/
structure PortFrame (s t : State) : Prop where
  rom : t.rom = s.rom
  req : t.req = s.req
  rxbuf : t.rxbuf = s.rxbuf
  res : t.res = s.res
  lim : t.lim = s.lim
  limValid : t.limValid = s.limValid
  seq : t.seq = s.seq
  bus : t.bus = s.bus
  chain : t.chain = s.chain
  params : t.params = s.params
  host : t.host = s.host

/-- The mirror set of one IC changed by `f`. -/
def State.updateMirror (s : State) (ic : Fin 32) (f : Mirror → Mirror) : State :=
  s.setMirrors (s.mirrors.setIfInBounds ic.val (f (s.mirror ic.val)))

/-- After the mirror set of one IC is changed, every other IC has its own. -/
theorem State.mirror_updateMirror (s : State) (ic : Fin 32) (f : Mirror → Mirror) (j : Nat) :
    (s.updateMirror ic f).mirror j = if ic.val = j then f (s.mirror j) else s.mirror j := by
  rw [State.updateMirror, State.mirror_setMirrors, Vector.getElem?_setIfInBounds]
  by_cases same : ic.val = j
  · simp [← same]
  · simp [same, State.mirror]

/-- What a host write to `isospi_reverse` does to its mirror set. -/
def Mirror.setReverse (m : Mirror) (rev : Bool) : Mirror := { m with isospiReverse := .written rev }

/-- What a host write to a transmit byte does to its mirror set. -/
def Mirror.setTx (m : Mirror) (k : SingleKind) (j : Fin 6) (b : Byte) : Mirror :=
  m.set k { m.get k with tx := (m.get k).tx.set j (.written b) }

theorem hostWrite_isospiReverse_eq_next {ic : Fin 32} {rev : Bool} {s t : State} :
    hostWrite (.isospiReverse ic rev) s = .next t ↔
      ic.val < s.params.maxIc ∧ t = s.updateMirror ic (·.setReverse rev) :=
  writeMirror_eq_next (f := (·.setReverse rev))

theorem hostWrite_tx_eq_next {ic : Fin 32} {k : SingleKind} {j : Fin 6} {b : Byte} {s t : State} :
    hostWrite (.tx ic k j b) s = .next t ↔ ic.val < s.params.maxIc ∧ t = s.updateMirror ic (·.setTx k j b) :=
  writeMirror_eq_next (f := (·.setTx k j b))

/-- A host write that answers a state updates its own register. -/
theorem hostWrite_frame {w : HostWrite} {s t : State} (h : hostWrite w s = .next t) :
    PortFrame s t ∧ t.lastRead = s.lastRead := by
  cases w with
  | argCmd v => cases h; exact ⟨by constructor <;> rfl, rfl⟩
  | argLen v => cases h; exact ⟨by constructor <;> rfl, rfl⟩
  | argLim v => cases h; exact ⟨by constructor <;> rfl, rfl⟩
  | buf i b => cases h; exact ⟨by constructor <;> rfl, rfl⟩
  | crcCount k v => cases h; exact ⟨by constructor <;> rfl, rfl⟩
  | isospiReverse ic rev =>
    obtain ⟨-, rfl⟩ := hostWrite_isospiReverse_eq_next.mp h
    exact ⟨by constructor <;> rfl, rfl⟩
  | tx ic k j b =>
    obtain ⟨-, rfl⟩ := hostWrite_tx_eq_next.mp h
    exact ⟨by constructor <;> rfl, rfl⟩

/-- A host access writes none of the registers the host may only read, `REQ`, the bus and the environment (R43, R62). -/
theorem hostAccess_frame {a : PortAccess} {s t : State} (h : hostAccess a s = .next t) : PortFrame s t := by
  cases a with
  | write w => exact (hostWrite_frame h).1
  | writeRo r => cases h
  | readRw r =>
    obtain ⟨v, -, rfl⟩ := hostRead_eq_next.mp h
    constructor <;> rfl
  | readRo r =>
    obtain ⟨v, -, rfl⟩ := hostRead_eq_next.mp h
    constructor <;> rfl

/-- What every step leaves alone. -/
structure StepFrame (s t : State) : Prop where
  rom : t.rom = s.rom
  seq : t.seq = s.seq
  params : t.params = s.params
  chainSize : t.chain.cond.length = s.chain.cond.length
  limits : s.limValid = true → t.lim = s.lim ∧ t.limValid = true

/-- A step that answers a state has the frame of its wait, its access or its operation. -/
theorem step_frame {s t : State} (h : step s = .next t) : StepFrame s t := by
  obtain ⟨-, rfl⟩ | ⟨a, rest, -, -, access⟩ | ⟨w, rest, i, -, -, -, run⟩ := step_cases h
  · constructor <;> simp
  · have f := hostAccess_frame access
    exact ⟨f.rom, f.seq, f.params, by simp [f.chain], fun set => ⟨f.lim, f.limValid.trans set⟩⟩
  · have f := exec_frame run
    exact ⟨f.rom, f.seq, f.params, by simpa using f.chainSize, f.limits⟩

/-- When the block is idle, a request word that decodes runs its operation (R22, R24). -/
theorem step_request {s : State} {w : Word} {rest : List HostAccess} {i : Instr} (idle : s.seq = .idle)
    (next : s.host = .request w :: rest) (dec : decode w = .ok i) :
    step s = exec i ((s.setHost rest).timeouts.setReq w) := by
  simp [step, nextAction, idle, next, dec]

/-- When the block is idle, another access goes to the host port (R43). -/
theorem step_port {s : State} {a : PortAccess} {rest : List HostAccess} (idle : s.seq = .idle)
    (next : s.host = .port a :: rest) : step s = hostAccess a (s.setHost rest).timeouts := by
  simp [step, nextAction, idle, next]

/-- Settles O7: the two equations of an idle step. -/
theorem stepRunsTheDecodedRequest : Obligations.StepRunsTheDecodedRequest :=
  ⟨fun _ _ _ _ => step_request, fun _ _ _ => step_port⟩

/-- Settles O56: the step is the host port's, which refuses a write to a read-only register. -/
theorem readOnlyRegistersRefuseWrites : Obligations.ReadOnlyRegistersRefuseWrites :=
  fun _ _ _ idle next => step_port idle next

/-- Settles O34: one clause of the frame of a step. -/
theorem limitsNeverChangeOnceSet : Obligations.LimitsNeverChangeOnceSet :=
  fun _ _ set run => (step_frame run).limits set

/-- Settles O50: four clauses of the frame of a step. -/
theorem stepKeepsRomAndParameters : Obligations.StepKeepsRomAndParameters := by
  intro s t run
  have f := step_frame run
  exact ⟨f.rom, f.params, f.seq, f.chainSize⟩

/-- Settles O43: three clauses of the frame of an operation. -/
theorem statusIsWrittenOnlyWhereStated : Obligations.StatusIsWrittenOnlyWhereStated := by
  intro s t i run
  have f := exec_frame run
  exact ⟨fun other => ⟨f.mirrors other, f.crcCount other⟩, f.res⟩

/-- Settles O58: the word is put into `REQ` before the operation runs, and no operation writes `REQ`. -/
theorem requestWordReadsBack : Obligations.RequestWordReadsBack := by
  intro s t w rest next run
  obtain ⟨none, -⟩ | ⟨a, rest', -, port, -⟩ | ⟨w', rest', i, -, request, -, op⟩ := step_cases run
  · simp [next] at none
  · simp [next] at port
  · obtain ⟨rfl, -⟩ : w = w' ∧ rest = rest' := by simpa [next] using request
    have kept : t.req = .written w := (exec_frame op).req
    simp [readRwValue, kept]

end Sys2Proof.Machine
end

/-! ## The invariant -/

section
namespace Sys2Proof.Machine

/-- The bus between two operations: `CSB` is high and the trace keeps the CSB discipline (R39, R121). -/
def Bus.Rests (b : Bus) : Prop := b.csb = true ∧ traceScan true b.trace = some true

/-- A transaction that only sends appends one whole span. -/
theorem Bus.Rests.sendTxn {b : Bus} (h : b.Rests) (bytes : List Byte) : (sendTxn bytes b).Rests := by
  rw [sendTxn_eq]
  exact ⟨rfl, by simp [traceScan_append, h.2, traceScan_span]⟩

/-- A read transaction appends one whole span. -/
theorem Bus.Rests.readTxn {b : Bus} (h : b.Rests) (rom : Vector Half 256) (n : Nat) (c : Half) :
    (readTxn rom n c b).2.Rests := by
  rw [readTxn_eq]
  exact ⟨rfl, by simp [traceScan_append, h.2, traceScan_span]⟩

/-- A delay does not touch `CSB`. -/
theorem Bus.Rests.delay {b : Bus} (h : b.Rests) (t : Nat) : (b.delay t).Rests :=
  ⟨h.1, by simp [Bus.delay, traceScan_append, h.2, traceScan]⟩

/-- A pulse of `WAKE_IDLE` is the transaction that sends the dummy byte (R151). -/
theorem wakeIdlePulse_eq (b : Bus) : wakeIdlePulse b = sendTxn [Config.wakeDummyByte] b := rfl

/-- The pulses of `WAKE_IDLE` leave the bus at rest, with or without the gap. -/
theorem Bus.Rests.wakeIdlePulses {b : Bus} (h : b.Rests) (gap k : Nat) : (wakeIdlePulses gap k b).Rests := by
  induction k generalizing b with
  | zero => exact h
  | succ k ih =>
    have pulse : (wakeIdlePulse b).Rests := wakeIdlePulse_eq b ▸ h.sendTxn _
    unfold Machine.wakeIdlePulses
    split
    · exact ih (pulse.delay gap)
    · exact ih pulse

/-- A pulse of `WAKE_SLEEP` lowers `CSB` and raises it again (R152). -/
theorem Bus.Rests.wakeSleepPulse {b : Bus} (h : b.Rests) : (wakeSleepPulse b).Rests :=
  ⟨rfl, by simp [Machine.wakeSleepPulse, Bus.csLow, Bus.csHigh, Bus.delay, traceScan_append, h.2, traceScan]⟩

/-- The pulses of `WAKE_SLEEP` leave the bus at rest. -/
theorem Bus.Rests.wakeSleepPulses {b : Bus} (h : b.Rests) (k : Nat) : (wakeSleepPulses k b).Rests := by
  induction k generalizing b with
  | zero => exact h
  | succ k ih => exact ih h.wakeSleepPulse

/-! Each update of one part of the state keeps the invariant, given what the invariant says of that part. -/

section
variable {s : State} (h : Inv s)
include h

theorem Inv.rests : s.bus.Rests := ⟨h.csbHigh, h.discipline⟩
theorem Inv.setReq (w : Word) : Inv (s.setReq w) := { h with }
theorem Inv.setArgCmd (v : Half) : Inv (s.setArgCmd v) := { h with }
theorem Inv.setArgLen (v : Byte) : Inv (s.setArgLen v) := { h with }
theorem Inv.setArgLim (v : Word) : Inv (s.setArgLim v) := { h with }
theorem Inv.setRes (v : Half) : Inv (s.setRes v) := { h with }
theorem Inv.setCrcCount (c : Vector Half 10) : Inv (s.setCrcCount c) := { h with }
theorem Inv.setChain (c : Chain) : Inv (s.setChain c) := { h with }
theorem Inv.timeouts : Inv s.timeouts := h.setChain _
theorem Inv.setHost (l : List HostAccess) : Inv (s.setHost l) := { h with }
theorem Inv.setLastRead (v : Word) : Inv (s.setLastRead v) := { h with }
theorem Inv.setBus {b : Bus} (rests : b.Rests) : Inv (s.setBus b) :=
  { h with csbHigh := rests.1, discipline := rests.2 }
theorem Inv.setBuf {m : Memory} (wf : Memory.wf m = true) : Inv (s.setBuf m) := { h with bufWf := wf }
theorem Inv.setRxbuf {m : Memory} (wf : Memory.wf m = true) : Inv (s.setRxbuf m) := { h with rxbufWf := wf }
theorem Inv.setLimits {l : Limits} (ok : limitsOk l = true) : Inv (s.setLimits l) := { h with limits := fun _ => ok }
theorem Inv.setMirrors {ms : Vector Mirror Config.icLimit} (un : ∀ ic, undecoded ((s.setMirrors ms).mirror ic)) :
    Inv (s.setMirrors ms) := { h with undecodedMirrors := un }

end

/-- A change of one mirror set keeps the invariant if it keeps the never-written fields. -/
theorem Inv.updateMirror {s : State} (h : Inv s) (ic : Fin 32) {f : Mirror → Mirror}
    (keeps : ∀ m, undecoded m → undecoded (f m)) : Inv (s.updateMirror ic f) := by
  refine h.setMirrors fun j => ?_
  change undecoded ((s.updateMirror ic f).mirror j)
  rw [State.mirror_updateMirror]
  split
  · exact keeps _ (h.undecodedMirrors j)
  · exact h.undecodedMirrors j

/-- A host write keeps the invariant: those to a mirror write none of the never-written fields (R193). -/
theorem Inv.hostWrite {w : HostWrite} {s t : State} (h : Inv s) (run : hostWrite w s = .next t) : Inv t := by
  cases w with
  | argCmd v => cases run; exact h.setArgCmd v
  | argLen v => cases run; exact h.setArgLen v
  | argLim v => cases run; exact h.setArgLim v
  | buf i b => cases run; exact h.setBuf (Memory.wf_write _ _ _ h.bufWf i.isLt)
  | crcCount k v => cases run; exact h.setCrcCount _
  | isospiReverse ic rev =>
    obtain ⟨-, rfl⟩ := hostWrite_isospiReverse_eq_next.mp run
    exact h.updateMirror ic fun _ un => un
  | tx ic k j b =>
    obtain ⟨-, rfl⟩ := hostWrite_tx_eq_next.mp run
    exact h.updateMirror ic fun _ un => un

/-- A host access keeps the invariant (R43). -/
theorem Inv.hostAccess {a : PortAccess} {s t : State} (h : Inv s) (run : hostAccess a s = .next t) : Inv t := by
  cases a with
  | writeRo r => cases run
  | readRw r =>
    obtain ⟨v, -, rfl⟩ := hostRead_eq_next.mp run
    exact h.setLastRead v
  | readRo r =>
    obtain ⟨v, -, rfl⟩ := hostRead_eq_next.mp run
    exact h.setLastRead v
  | write w => exact h.hostWrite run

/-- Each of the `N` groups that `WRGRP` marshals has 6 bytes (R33, R184). -/
theorem txGroups_flatten_length {n : Nat} {rev : Bool} {k : SingleKind} {s : State} {ds : List (List Byte)}
    (h : txGroups n rev k s = .next ds) : ds.flatten.length = 6 * n := by
  obtain ⟨rfl, each⟩ := txGroups_eq_next.mp h
  have six : ∀ d ∈ ds, d.length = 6 := by
    intro d mem
    obtain ⟨p, lt, rfl⟩ := List.getElem_of_mem mem
    simpa using (congrArg List.length (txGroup_eq_next.mp (each p lt))).symm
  have lengths : ds.map List.length = List.replicate ds.length 6 :=
    List.eq_replicate_iff.mpr ⟨by simp, by simpa using six⟩
  simp [List.length_flatten, lengths, Nat.mul_comm]

/-- The bytes of a read transaction fit `RXBUF`, for `8N` is at most its size (R29, R77). -/
theorem wf_writeBytes_readTxn {m : Memory} (wf : Memory.wf m = true) (rom : Vector Half 256) {n : Nat} (small : n ≤ 32)
    (c : Half) (b : Bus) : Memory.wf (Memory.writeBytes m 0 (readTxn rom n c b).1) = true :=
  Memory.wf_writeBytes _ _ _ wf (by rw [readTxn_length, Config.bufSize]; omega)

/-- One pass of the loop of `RDGRP` keeps the invariant. -/
theorem Inv.readGroup {s : State} (h : Inv s) (k : Kind) {n : Nat} (small : n ≤ 32) (rev : Bool) (g : Nat) :
    Inv (readGroup k n rev g s).2 := by
  refine (Inv.setMirrors ((h.setBus (h.rests.readTxn _ _ _)).setRxbuf
    (wf_writeBytes_readTxn h.rxbufWf _ small _ _)) fun ic => ?_).setCrcCount _
  rw [State.mirror_setMirrors, storeGroups_get _ _ _ _ _ _ _ _ small]
  split
  · exact storeGroup_undecoded _ _ _ _ _ (h.undecodedMirrors ic)
  · exact h.undecodedMirrors ic

/-- The whole loop of `RDGRP` keeps the invariant. -/
theorem Inv.readGroups {s : State} (h : Inv s) (k : Kind) {n : Nat} (small : n ≤ 32) (rev : Bool) (gs : List Nat) :
    Inv (readGroups k n rev gs s).2 := by
  induction gs generalizing s with
  | nil => exact h
  | cons g gs ih => exact ih (h.readGroup k small rev g)

/-- Every operation that completes keeps the invariant. -/
theorem Inv.exec {i : Instr} {s t : State} (h : Inv s) (run : exec i s = .next t) : Inv t := by
  have bound := s.params.maxIc_bounds
  cases i with
  | pec15 =>
    obtain ⟨data, -, rfl⟩ := execPec15_eq_next.mp run
    exact h.setRes _
  | cmd =>
    obtain ⟨c, -, rfl⟩ := execCmd_eq_next.mp run
    exact (h.setBus (h.rests.sendTxn _)).timeouts
  | write n =>
    obtain ⟨-, c, groups, -, -, rfl⟩ := execWrite_eq_next.mp run
    exact (h.setBus (h.rests.sendTxn _)).timeouts
  | read n =>
    obtain ⟨size, c, -, rfl⟩ := execRead_eq_next.mp run
    exact (((h.setBus (h.rests.readTxn _ _ _)).setRxbuf
      (wf_writeBytes_readTxn h.rxbufWf _ (by omega) _ _)).setRes _).timeouts
  | wakeIdle n =>
    obtain ⟨-, rfl⟩ := execWakeIdle_eq_next.mp run
    exact (h.setBus (h.rests.wakeIdlePulses _ _)).setChain _
  | wakeSleep n =>
    obtain ⟨-, rfl⟩ := execWakeSleep_eq_next.mp run
    exact (h.setBus (h.rests.wakeSleepPulses _)).setChain _
  | initLimits numStat =>
    obtain ⟨-, v, -, ok, rfl⟩ := execInitLimits_eq_next.mp run
    exact h.setLimits ok
  | wrgrp kind reg n =>
    obtain ⟨size, k, rev, groups, -, -, -, marshalled, rfl⟩ := execWrgrp_eq_next.mp run
    have fits : 0 + groups.flatten.length ≤ Config.bufSize := by
      rw [txGroups_flatten_length marshalled, Config.bufSize]; omega
    exact ((h.setBuf (Memory.wf_writeBytes _ _ _ h.bufWf fits)).setBus (h.rests.sendTxn _)).timeouts
  | rdgrp kind reg n =>
    obtain ⟨size, k, gs, rev, -, -, -, rfl⟩ := execRdgrp_eq_next.mp run
    exact ((h.readGroups k (by omega) rev gs).setRes _).timeouts

/-- Settles O45: a step is a wait, an access or an operation, each of which keeps the invariant. -/
theorem stepKeepsTheInvariant : Obligations.StepKeepsTheInvariant := by
  intro s t h run
  obtain ⟨-, rfl⟩ | ⟨a, rest, -, -, access⟩ | ⟨w, rest, i, -, -, -, op⟩ := step_cases run
  · exact h.timeouts
  · exact (h.setHost rest).timeouts.hostAccess access
  · exact ((h.setHost rest).timeouts.setReq w).exec op

end Sys2Proof.Machine
end

/-! ## Noninterference: the mirrors at `N` and above, and the conditions of the chain -/

section
namespace Sys2Proof.Machine

/-- Two operations that begin with the same read or check, and go on alike from its value, end alike. -/
theorem sameOutcome_andThen {α : Type} {r : State → State → Prop} {x y : Host.Outcome α Fault Refusal}
    {f g : α → Host.Outcome State Fault Refusal} (same : y = x)
    (rest : ∀ a, x = .next a → sameOutcome r (f a) (g a)) : sameOutcome r (andThen x f) (andThen y g) := by
  subst same
  cases y with
  | next a => exact rest a rfl
  | fault e => rfl
  | refused e => rfl

/-- The loop of `REV` reads the mirror sets it lists and nothing else (R181). -/
theorem checkReverse_congr {s u : State} {rev : Bool} {ics : List Nat}
    (same : ∀ ic ∈ ics, u.mirror ic = s.mirror ic) : checkReverse u rev ics = checkReverse s rev ics := by
  induction ics with
  | nil => rfl
  | cons ic ics ih =>
    obtain ⟨here, rest⟩ := List.forall_mem_cons.mp same
    simp [checkReverse, reverseFlag, here, ih rest]

/-- `REV(N)` reads the mirror sets below `N` and nothing else (R45, R181). -/
theorem chainReverse_congr {s u : State} {n : Nat} (pos : 1 ≤ n) (same : ∀ ic < n, u.mirror ic = s.mirror ic) :
    chainReverse n u = chainReverse n s := by
  have loop (rev : Bool) : checkReverse u rev (List.range' 1 (n - 1)) = checkReverse s rev (List.range' 1 (n - 1)) :=
    checkReverse_congr fun ic mem => same ic (by have := List.mem_range'_1.mp mem; omega)
  simp [chainReverse, reverseFlag, same 0 pos, loop]

/-- `WRGRP` marshals from the mirror sets below `N` and nothing else (R45, R184). -/
theorem txGroups_congr {s u : State} {n : Nat} (rev : Bool) (k : SingleKind)
    (same : ∀ ic < n, u.mirror ic = s.mirror ic) : txGroups n rev k u = txGroups n rev k s := by
  have each : ∀ p ∈ List.range n, txGroup u k (mapIndex p n rev) = txGroup s k (mapIndex p n rev) := fun p mem => by
    rw [txGroup, txGroup, same _ (mapIndex_lt (List.mem_range.mp mem))]
  rw [txGroups, txGroups, List.map_congr_left each]

/-- One pass of the loop of `RDGRP` keeps every mirror set at `N` or above (R45). -/
theorem readGroup_mirror_outside (k : Kind) {n : Nat} (small : n ≤ 32) (rev : Bool) (g : Nat) (s : State) {ic : Nat}
    (out : n ≤ ic) : (readGroup k n rev g s).2.mirror ic = s.mirror ic :=
  (storeGroups_get _ _ _ _ _ _ _ _ small).trans (if_neg (by omega))

/-- The loop of `RDGRP` keeps every mirror set at `N` or above (R45). -/
theorem readGroups_mirror_outside (k : Kind) {n : Nat} (small : n ≤ 32) (rev : Bool) (gs : List Nat) (s : State)
    {ic : Nat} (out : n ≤ ic) : (readGroups k n rev gs s).2.mirror ic = s.mirror ic := by
  induction gs generalizing s with
  | nil => rfl
  | cons g gs ih => exact (ih _).trans (readGroup_mirror_outside k small rev g s out)

/-- An operation that completes keeps every mirror set at its `N` or above (R45). -/
theorem exec_mirror_outside {i : Instr} {s t : State} {ic : Nat} (run : exec i s = .next t) (out : chainLength i ≤ ic) :
    t.mirror ic = s.mirror ic := by
  by_cases read : ∃ kind reg n, i = .rdgrp kind reg n
  · obtain ⟨kind, reg, n, rfl⟩ := read
    obtain ⟨size, k, gs, rev, -, -, -, rfl⟩ := execRdgrp_eq_next.mp run
    have bound := s.params.maxIc_bounds
    exact readGroups_mirror_outside k (by omega) rev gs s out
  · have kept : t.mirrors = s.mirrors := (exec_frame run).mirrors fun kind reg n eq => read ⟨kind, reg, n, eq⟩
    rw [State.mirror, State.mirror, kept]

/-- The state `u` is `t` but for mirror sets at `n` or above. -/
def AgreeBelow (n : Nat) (t u : State) : Prop := u = t.setMirrors u.mirrors ∧ ∀ ic < n, u.mirror ic = t.mirror ic

/-- One pass of the loop of `RDGRP` does the same whatever the mirror sets at `N` and above hold. -/
theorem readGroup_agreeBelow (k : Kind) {n : Nat} (small : n ≤ 32) (rev : Bool) (g : Nat) {t u : State}
    (agree : AgreeBelow n t u) :
    (readGroup k n rev g u).1 = (readGroup k n rev g t).1 ∧
      AgreeBelow n (readGroup k n rev g t).2 (readGroup k n rev g u).2 := by
  obtain ⟨eq, below⟩ := agree
  generalize u.mirrors = ms at eq
  subst eq
  refine ⟨rfl, rfl, fun ic lt => ?_⟩
  have stored (v : State) := storeGroups_get v.rom k g n rev
    (readTxn v.rom n (v.params.cmdCode k .rd g) v.bus).1 v.mirrors ic small
  have first := stored t
  have second := stored (t.setMirrors ms)
  rw [if_pos lt] at first second
  exact second.trans ((congrArg _ (below ic lt)).trans first.symm)

/-- The loop of `RDGRP` does the same whatever the mirror sets at `N` and above hold. -/
theorem readGroups_agreeBelow (k : Kind) {n : Nat} (small : n ≤ 32) (rev : Bool) (gs : List Nat) {t u : State}
    (agree : AgreeBelow n t u) :
    (readGroups k n rev gs u).1 = (readGroups k n rev gs t).1 ∧
      AgreeBelow n (readGroups k n rev gs t).2 (readGroups k n rev gs u).2 := by
  induction gs generalizing t u with
  | nil => exact ⟨rfl, agree⟩
  | cons g gs ih =>
    obtain ⟨bad, after⟩ := readGroup_agreeBelow k small rev g agree
    obtain ⟨anyBad, last⟩ := ih after
    exact ⟨by rw [readGroups, readGroups, bad, anyBad], last⟩

/-- What an operation does is the same whatever the mirror sets at its `N` and above hold (R45). -/
theorem exec_agreeBelow (s : State) (i : Instr) (ms : Vector Mirror Config.icLimit)
    (below : ∀ ic < chainLength i, (s.setMirrors ms).mirror ic = s.mirror ic) :
    sameOutcome (AgreeBelow (chainLength i)) (exec i s) (exec i (s.setMirrors ms)) := by
  have bound := s.params.maxIc_bounds
  cases i with
  | pec15 => exact sameOutcome_andThen rfl fun _ _ => ⟨rfl, below⟩
  | cmd => exact sameOutcome_andThen rfl fun _ _ => ⟨rfl, below⟩
  | write n =>
    exact sameOutcome_andThen rfl fun _ _ => sameOutcome_andThen rfl fun _ _ => sameOutcome_andThen rfl fun _ _ =>
      ⟨rfl, below⟩
  | read n => exact sameOutcome_andThen rfl fun _ _ => sameOutcome_andThen rfl fun _ _ => ⟨rfl, below⟩
  | wakeIdle n => exact sameOutcome_andThen rfl fun _ _ => ⟨rfl, below⟩
  | wakeSleep n => exact sameOutcome_andThen rfl fun _ _ => ⟨rfl, below⟩
  | initLimits numStat =>
    exact sameOutcome_andThen rfl fun _ _ => sameOutcome_andThen rfl fun _ _ => sameOutcome_andThen rfl fun _ _ =>
      ⟨rfl, below⟩
  | wrgrp kind reg n =>
    refine sameOutcome_andThen rfl fun count size => ?_
    obtain ⟨pos, -, rfl⟩ := chainSize_eq_next.mp size
    exact sameOutcome_andThen rfl fun k _ => sameOutcome_andThen rfl fun _ _ =>
      sameOutcome_andThen (chainReverse_congr pos below) fun rev _ =>
      sameOutcome_andThen (txGroups_congr rev k below) fun _ _ => ⟨rfl, below⟩
  | rdgrp kind reg n =>
    refine sameOutcome_andThen rfl fun count size => ?_
    obtain ⟨pos, high, rfl⟩ := chainSize_eq_next.mp size
    refine sameOutcome_andThen rfl fun k _ => sameOutcome_andThen (by cases k <;> rfl) fun gs _ =>
      sameOutcome_andThen (chainReverse_congr pos below) fun rev _ => ?_
    obtain ⟨anyBad, rest, same⟩ :=
      readGroups_agreeBelow k (n := n.toNat) (by omega) rev gs (u := s.setMirrors ms) ⟨rfl, below⟩
    refine ⟨?_, same⟩
    rw [anyBad, rest]
    rfl

/-- Settles O42: the mirror sets at `N` and above are neither written nor read. -/
theorem mirrorsAtNAndAboveAreUntouched : Obligations.MirrorsAtNAndAboveAreUntouched :=
  ⟨fun _ _ _ _ => exec_mirror_outside, fun s i ms below => exec_agreeBelow s i ms fun ic lt => by
    rw [State.mirror_setMirrors, below ic lt, State.mirror]⟩

/-- The loop of `RDGRP` neither reads nor writes the chain. -/
theorem readGroups_setChain (k : Kind) (n : Nat) (rev : Bool) (gs : List Nat) (s : State) (c : Chain) :
    readGroups k n rev gs (s.setChain c) =
      ((readGroups k n rev gs s).1, (readGroups k n rev gs s).2.setChain c) := by
  induction gs generalizing s with
  | nil => rfl
  | cons g gs ih =>
    have first : readGroup k n rev g (s.setChain c) =
      ((readGroup k n rev g s).1, (readGroup k n rev g s).2.setChain c) := rfl
    simp only [readGroups, first, ih]

/-- Settles O51: every read and check is of another part of the state, and what follows differs in the chain alone. -/
theorem chainConditionsAreNotRead : Obligations.ChainConditionsAreNotRead := by
  intro s i c
  cases i with
  | pec15 => exact sameOutcome_andThen rfl fun _ _ => rfl
  | cmd => exact sameOutcome_andThen rfl fun _ _ => rfl
  | write n =>
    exact sameOutcome_andThen rfl fun _ _ => sameOutcome_andThen rfl fun _ _ => sameOutcome_andThen rfl fun _ _ => rfl
  | read n => exact sameOutcome_andThen rfl fun _ _ => sameOutcome_andThen rfl fun _ _ => rfl
  | wakeIdle n => exact sameOutcome_andThen rfl fun _ _ => rfl
  | wakeSleep n => exact sameOutcome_andThen rfl fun _ _ => rfl
  | initLimits numStat =>
    exact sameOutcome_andThen rfl fun _ _ => sameOutcome_andThen rfl fun _ _ => sameOutcome_andThen rfl fun _ _ => rfl
  | wrgrp kind reg n =>
    refine sameOutcome_andThen rfl fun count size => ?_
    obtain ⟨pos, -, rfl⟩ := chainSize_eq_next.mp size
    exact sameOutcome_andThen rfl fun k _ => sameOutcome_andThen rfl fun _ _ =>
      sameOutcome_andThen (chainReverse_congr pos fun _ _ => rfl) fun rev _ =>
      sameOutcome_andThen (txGroups_congr rev k fun _ _ => rfl) fun _ _ => rfl
  | rdgrp kind reg n =>
    refine sameOutcome_andThen rfl fun count size => ?_
    obtain ⟨pos, -, rfl⟩ := chainSize_eq_next.mp size
    refine sameOutcome_andThen rfl fun k _ => sameOutcome_andThen (by cases k <;> rfl) fun gs _ =>
      sameOutcome_andThen (chainReverse_congr pos fun _ _ => rfl) fun rev _ => ?_
    dsimp only
    rw [readGroups_setChain]
    rfl

end Sys2Proof.Machine
end

/-! ## What the host reads -/

section
namespace Sys2Proof.Machine

/-- A slot read and widened for the host is what the host gets from it. -/
theorem andThen_read_eq_delivers {α : Type} (x : Slot α) (toWord : α → Word) :
    (andThen (Slot.read x) fun v => .next (toWord v)) = delivers x toWord := by
  cases x <;> rfl

/-- A slot of the width of a word is delivered as it is. -/
theorem read_eq_delivers (x : Slot Word) : Slot.read x = delivers x id := by
  cases x <;> rfl

/-- A byte read and widened for the host is what the host gets from it. -/
theorem andThen_readByte_eq_deliversByte (m : Memory) (a : Nat) :
    (andThen (Memory.readByte m a) fun v => .next (v.setWidth 32)) = deliversByte m a := by
  unfold Memory.readByte deliversByte
  cases Memory.read m a <;> rfl

/-- A field of a mirror set that exists is delivered (R32, R43). -/
theorem readMirror_present {α : Type} {ic : Fin 32} {s : State} (there : ic.val < s.params.maxIc)
    (field : Mirror → Slot α) (toWord : α → Word) :
    readMirror ic s field toWord = delivers (field (s.mirror ic.val)) toWord := by
  simp [readMirror, mirrorExists, there, andThen_read_eq_delivers]

/-- A field of a mirror set that does not exist faults (log 12). -/
theorem readMirror_absent {α : Type} {ic : Fin 32} {s : State} (absent : s.params.maxIc ≤ ic.val)
    (field : Mirror → Slot α) (toWord : α → Word) : readMirror ic s field toWord = .fault .unwritten :=
  readMirror_eq_fault.mpr fun there => absurd there (by omega)

/-- Every read-write register of a mirror set that does not exist faults. -/
theorem readRwValue_absent {r : RwReg} {ic : Fin 32} {s : State} (of : mirrorSetOf (.rw r) = some ic)
    (absent : s.params.maxIc ≤ ic.val) : readRwValue r s = .fault .unwritten := by
  cases r <;> cases of <;> simp only [readRwValue, readMirror_absent absent]

/-- Every read-only register of a mirror set that does not exist faults. -/
theorem readRoValue_absent {r : RoReg} {ic : Fin 32} {s : State} (of : mirrorSetOf (.ro r) = some ic)
    (absent : s.params.maxIc ≤ ic.val) : readRoValue r s = .fault .unwritten := by
  cases r <;> cases of <;> simp only [readRoValue, readMirror_absent absent]

/-- A read that faults ends the access so (R44). -/
theorem hostRead_fault {x : Host.Outcome Word Fault Refusal} {e : Fault} (s : State) (h : x = .fault e) :
    hostRead x s = .fault e := by
  subst h; rfl

/-- `LIM` faults while `LIM_VALID = 0` (R31, R44). -/
theorem readRoValue_lim_unset {s : State} (unset : s.limValid = false) (f : LimField) :
    readRoValue (.lim f) s = .fault .unwritten := by
  simp [readRoValue, State.readLimits, unset]

/-- `LIM` is delivered field by field once it is set (R31). -/
theorem readRoValue_lim_set {s : State} (set : s.limValid = true) (f : LimField) :
    readRoValue (.lim f) s = .next (s.lim.field f) := by
  simp [readRoValue, State.readLimits, set]

/-- Settles O57: each register is a slot or a byte that is delivered, and a host read passes on what it delivers. -/
theorem hostReadDeliversTheRegister : Obligations.HostReadDeliversTheRegister := by
  intro s
  refine ⟨fun _ _ h => hostRead_eq_next.mpr ⟨_, h, rfl⟩, fun _ _ h => hostRead_eq_next.mpr ⟨_, h, rfl⟩,
    fun _ _ => hostRead_fault s, fun _ _ => hostRead_fault s, read_eq_delivers _, andThen_read_eq_delivers _ _, andThen_read_eq_delivers _ _,
    read_eq_delivers _, fun _ => andThen_readByte_eq_deliversByte _ _, fun _ => rfl,
    fun _ => andThen_readByte_eq_deliversByte _ _, andThen_read_eq_delivers _ _, rfl, fun _ => rfl,
    readRoValue_lim_unset, fun set => ?limits, fun ic there => ?mirror,
    fun _ _ => readRwValue_absent, fun _ _ => readRoValue_absent⟩
  case limits =>
    have field := readRoValue_lim_set set
    exact ⟨field _, field _, field _, field _, field _, field _⟩
  case mirror =>
    have flags : flagWord = fun b => if b then 1 else 0 := rfl
    simp [readRwValue, readRoValue, readMirror_present there, flags]

/-! ### After reset -/

/-- Every mirror set is unwritten at reset (R42). -/
theorem State.reset_mirror (ic : Nat) : State.reset.mirror ic = Mirror.reset := by
  unfold State.mirror State.reset
  by_cases lt : ic < Config.icLimit
  · simp [lt]
  · simp [Vector.getElem?_eq_none (Nat.le_of_not_lt lt)]

/-- The mirror of every single-group kind is unwritten at reset (R42). -/
theorem Mirror.reset_get (k : SingleKind) : Mirror.reset.get k = SingleMirror.reset := by
  simp [Mirror.get, Mirror.reset]

/-- A mirror field that is unwritten in a mirror set at reset faults at reset. -/
theorem readMirror_reset {α : Type} {ic : Fin 32} {field : Mirror → Slot α} {toWord : α → Word}
    (un : field Mirror.reset = .unwritten) : readMirror ic State.reset field toWord = .fault .unwritten :=
  readMirror_eq_fault.mpr fun _ => by rw [State.reset_mirror, un]

/-- Every read-write register but the tally faults at reset. -/
theorem readRwValue_reset {r : RwReg} (other : ∀ k, r ≠ .crcCount k) :
    readRwValue r State.reset = .fault .unwritten := by
  cases r with
  | crcCount k => exact absurd rfl (other k)
  | isospiReverse ic => exact readMirror_reset rfl
  | tx ic k j =>
    unfold readRwValue
    exact readMirror_reset (by simp [Mirror.reset_get, SingleMirror.reset])
  | req | argCmd | argLen | argLim | buf => rfl

/-- Every read-only register but `LIM_VALID` and `ROM` faults at reset. -/
theorem readRoValue_reset {r : RoReg} (notValid : r ≠ .limValid) (notRom : ∀ a, r ≠ .rom a) :
    readRoValue r State.reset = .fault .unwritten := by
  cases r with
  | limValid => exact absurd rfl notValid
  | rom a => exact absurd rfl (notRom a)
  | rxbuf | res | lim => rfl
  | rx ic k | pecErr ic k =>
    unfold readRoValue
    exact readMirror_reset (by simp [Mirror.reset_get, SingleMirror.reset])
  | _ =>
    unfold readRoValue
    exact readMirror_reset (by simp [Mirror.reset])

/-- Settles O59: at reset every slot is unwritten and both buffers are empty. -/
theorem unwrittenRegistersFaultAfterReset : Obligations.UnwrittenRegistersFaultAfterReset :=
  ⟨fun _ => readRwValue_reset, fun _ => readRoValue_reset⟩

/-! ### After a host write -/

/-- The single-group kinds in the order of their mirrors. -/
def singleTable : List SingleKind := [.cfga, .cfgb, .comm, .pwma, .pwmb, .sctrla, .sctrlb]

/-- No two single-group kinds share a mirror (R33). -/
theorem singleIndex_injective : Function.Injective singleIndex := by
  have back (k : SingleKind) : singleTable[(singleIndex k).val]? = some k := by cases k <;> rfl
  intro k k' same
  simpa [same, back k'] using (back k).symm

/-- No two kinds share a counter (R37). -/
theorem kindIndex_injective : Function.Injective kindIndex := by
  have back (k : Kind) : kindTable[(kindIndex k).val]? = some k := by rcases k with k | k <;> cases k <;> rfl
  intro k k' same
  simpa [same, back k'] using (back k).symm

/-- After the mirror of one single-group kind is replaced, every other kind has its own. -/
theorem Mirror.get_set (m : Mirror) (k k' : SingleKind) (v : SingleMirror) :
    (m.set k v).get k' = if k = k' then v else m.get k' := by
  by_cases same : k = k'
  · simp [Mirror.get, Mirror.set, same]
  · have apart : (singleIndex k).val ≠ (singleIndex k').val := fun eq =>
      same (singleIndex_injective (Fin.ext eq))
    simp [Mirror.get, Mirror.set, same, Vector.getElem_set_ne _ _ apart]

/-- A transmit byte after a host write to one: the byte written, or the slot as before. -/
theorem Mirror.setTx_tx (m : Mirror) (k k' : SingleKind) (j j' : Fin 6) (b : Byte) :
    ((m.setTx k j b).get k').tx[j'] = if k = k' ∧ j = j' then .written b else (m.get k').tx[j'] := by
  rw [Mirror.setTx, Mirror.get_set]
  by_cases kind : k = k'
  · subst kind
    simp [Vector.getElem_set, Fin.ext_iff]
  · simp [kind]

/-- The mirror sets `x` and `y` are the same in every field the host may only read. -/
structure Mirror.SameReceived (x y : Mirror) : Prop where
  rx : ∀ k, (y.get k).rx = (x.get k).rx
  pecErr : ∀ k, (y.get k).pecErr = (x.get k).pecErr
  cv : y.cv = x.cv
  aux : y.aux = x.aux
  stat : y.stat = x.stat

/-- The flag `isospi_reverse` is none of the fields the host may only read. -/
theorem Mirror.setReverse_sameReceived (m : Mirror) (rev : Bool) : m.SameReceived (m.setReverse rev) := by
  constructor <;> intros <;> rfl

/-- A transmit byte is none of the fields the host may only read. -/
theorem Mirror.setTx_sameReceived (m : Mirror) (k : SingleKind) (j : Fin 6) (b : Byte) :
    m.SameReceived (m.setTx k j b) where
  rx k' := by rw [Mirror.setTx, Mirror.get_set]; split <;> simp_all
  pecErr k' := by rw [Mirror.setTx, Mirror.get_set]; split <;> simp_all
  cv := rfl
  aux := rfl
  stat := rfl

/-- A mirror field reads as before if the change of a mirror set keeps that field. -/
theorem readMirror_updateMirror {α : Type} {s : State} {ic ic' : Fin 32} {f : Mirror → Mirror}
    {field : Mirror → Slot α} {toWord : α → Word}
    (keeps : ic = ic' → field (f (s.mirror ic'.val)) = field (s.mirror ic'.val)) :
    readMirror ic' (s.updateMirror ic f) field toWord = readMirror ic' s field toWord := by
  have kept : field ((s.updateMirror ic f).mirror ic'.val) = field (s.mirror ic'.val) := by
    rw [State.mirror_updateMirror]
    split
    · next same => exact keeps (Fin.ext same)
    · rfl
  unfold readMirror
  rw [kept]
  rfl

/-- A mirror field that the change of its own mirror set writes reads as the value written. -/
theorem readMirror_updateMirror_same {α : Type} {s : State} {ic : Fin 32} {f : Mirror → Mirror} {field : Mirror → Slot α}
    {toWord : α → Word} {v : α} (there : ic.val < s.params.maxIc) (written : field (f (s.mirror ic.val)) = .written v) :
    readMirror ic (s.updateMirror ic f) field toWord = .next (toWord v) :=
  readMirror_eq_next.mpr ⟨there, v, by rw [State.mirror_updateMirror, if_pos rfl, written], rfl⟩

/-- Every read-only register reads as before if the change of a mirror set keeps the fields the host may only read. -/
theorem readRoValue_updateMirror {s : State} {ic : Fin 32} {f : Mirror → Mirror} (r : RoReg)
    (same : ∀ m, Mirror.SameReceived m (f m)) : readRoValue r (s.updateMirror ic f) = readRoValue r s := by
  cases r with
  | rxbuf | res | lim | limValid | rom => rfl
  | _ =>
    unfold readRoValue
    refine readMirror_updateMirror fun _ => ?_
    simp only [(same _).rx, (same _).pecErr, (same _).cv, (same _).aux, (same _).stat]

/-- A host write answers a state if the mirror set it names, if it names one, exists (R43). -/
theorem hostWrite_completes {w : HostWrite} {s : State} (there : namesMirror w s) : ∃ t, hostWrite w s = .next t := by
  cases w with
  | isospiReverse ic rev => exact ⟨_, hostWrite_isospiReverse_eq_next.mpr ⟨there, rfl⟩⟩
  | tx ic k j b => exact ⟨_, hostWrite_tx_eq_next.mpr ⟨there, rfl⟩⟩
  | argCmd | argLen | argLim | buf | crcCount => exact ⟨_, rfl⟩

/-- A host write to a mirror set that does not exist is refused (log 12). -/
theorem hostWrite_refused {w : HostWrite} {s : State} (absent : ¬ namesMirror w s) :
    hostWrite w s = .refused .hostWriteRO := by
  cases w with
  | isospiReverse | tx =>
    unfold hostWrite
    exact writeMirror_absent (Nat.le_of_not_lt absent)
  | argCmd | argLen | argLim | buf | crcCount => exact absurd trivial absent

/-- The register that a host write writes reads as the value written. -/
theorem hostWrite_readBack {w : HostWrite} {s t : State} (run : hostWrite w s = .next t) :
    readRwValue (writtenReg w) t = .next (writtenWord w) := by
  cases w with
  | argCmd | argLen | argLim => cases run; rfl
  | buf i b =>
    cases run
    simp [readRwValue, writtenReg, writtenWord, Memory.readByte, Memory.read_write]
  | crcCount k v =>
    cases run
    simp [readRwValue, writtenReg, writtenWord, State.crc]
  | isospiReverse ic rev =>
    obtain ⟨there, rfl⟩ := hostWrite_isospiReverse_eq_next.mp run
    exact readMirror_updateMirror_same there rfl
  | tx ic k j b =>
    obtain ⟨there, rfl⟩ := hostWrite_tx_eq_next.mp run
    unfold readRwValue writtenReg
    exact readMirror_updateMirror_same there (by rw [Mirror.setTx_tx, if_pos ⟨rfl, rfl⟩])

/-- Every read-write register but the one a host write writes reads as before. -/
theorem hostWrite_readRw_other {w : HostWrite} {s t : State} (run : hostWrite w s = .next t) {r : RwReg}
    (other : r ≠ writtenReg w) : readRwValue r t = readRwValue r s := by
  cases w with
  | argCmd v =>
    cases run
    cases r with
    | argCmd => exact absurd rfl other
    | _ => rfl
  | argLen v =>
    cases run
    cases r with
    | argLen => exact absurd rfl other
    | _ => rfl
  | argLim v =>
    cases run
    cases r with
    | argLim => exact absurd rfl other
    | _ => rfl
  | buf i b =>
    cases run
    cases r with
    | buf i' =>
      have apart : i.toNat ≠ i'.toNat := fun eq => other (congrArg RwReg.buf (BitVec.eq_of_toNat_eq eq.symm))
      simp [readRwValue, Memory.readByte, Memory.read_write, apart]
    | _ => rfl
  | crcCount k v =>
    cases run
    cases r with
    | crcCount k' =>
      have apart : (kindIndex k).val ≠ (kindIndex k').val := fun eq =>
        other (congrArg RwReg.crcCount (kindIndex_injective (Fin.ext eq.symm)))
      simp [readRwValue, State.crc, Vector.getElem_set_ne _ _ apart]
    | _ => rfl
  | isospiReverse ic rev =>
    obtain ⟨-, rfl⟩ := hostWrite_isospiReverse_eq_next.mp run
    cases r with
    | isospiReverse ic' => exact readMirror_updateMirror fun same => absurd (same ▸ rfl) other
    | tx ic' k' j' =>
      unfold readRwValue
      exact readMirror_updateMirror fun _ => rfl
    | _ => rfl
  | tx ic k j b =>
    obtain ⟨-, rfl⟩ := hostWrite_tx_eq_next.mp run
    cases r with
    | isospiReverse ic' => exact readMirror_updateMirror fun _ => rfl
    | tx ic' k' j' =>
      unfold readRwValue
      refine readMirror_updateMirror fun same => ?_
      have apart : ¬ (k = k' ∧ j = j') := by
        rintro ⟨rfl, rfl⟩
        exact other (same ▸ rfl)
      rw [Mirror.setTx_tx, if_neg apart]
    | _ => rfl

/-- Every read-only register reads as before after a host write. -/
theorem hostWrite_readRo {w : HostWrite} {s t : State} (run : hostWrite w s = .next t) (r : RoReg) :
    readRoValue r t = readRoValue r s := by
  cases w with
  | argCmd | argLen | argLim | buf | crcCount => cases run; cases r <;> rfl
  | isospiReverse ic rev =>
    obtain ⟨-, rfl⟩ := hostWrite_isospiReverse_eq_next.mp run
    exact readRoValue_updateMirror r fun m => m.setReverse_sameReceived rev
  | tx ic k j b =>
    obtain ⟨-, rfl⟩ := hostWrite_tx_eq_next.mp run
    exact readRoValue_updateMirror r fun m => m.setTx_sameReceived k j b

/-- Settles O55: completion, refusal, read-back and frame of a host write. -/
theorem hostWriteReadsBack : Obligations.HostWriteReadsBack := by
  refine ⟨fun _ _ => hostWrite_completes, fun _ _ => hostWrite_refused, fun w s t run => ?_⟩
  obtain ⟨f, lastRead⟩ := hostWrite_frame run
  exact ⟨hostWrite_readBack run, fun _ => hostWrite_readRw_other run, hostWrite_readRo run, f.bus, f.chain, f.seq,
    f.params, f.host, lastRead⟩

end Sys2Proof.Machine
end

/-! The proofs of the statements about buffers and operands (20_memory.md). -/

section
namespace Sys2Proof.Machine

/-- Of two writes of `RES`, the second stands. -/
@[simp] theorem State.setRes_setRes (s : State) (v w : Half) : (s.setRes v).setRes w = s.setRes w := rfl

/-- The operand of `PEC15` is `BUF` and `ARG_LEN` alone (R78), so a write of `RES` leaves it as it was. -/
@[simp] theorem pecOperand_setRes (s : State) (v : Half) : pecOperand (s.setRes v) = pecOperand s := by
  simp only [pecOperand, State.setRes_argLen, State.setRes_buf]

/-- Settles O19: the first run writes `RES` alone, so the second reads the same operand and writes the same `RES`. -/
theorem pec15IsIdempotent : Obligations.Pec15IsIdempotent := by
  intro s t run
  obtain ⟨data, operand, rfl⟩ := execPec15_eq_next.mp run
  have operandKept : pecOperand (s.setRes (pec15 s.rom data)) = .next data := by rw [pecOperand_setRes, operand]
  exact execPec15_eq_next.mpr ⟨data, operandKept, by rw [State.setRes_rom, State.setRes_setRes]⟩

end Sys2Proof.Machine
end

/-! The proofs of the statements about the request word (30_encoding.md). First its fields and the kind codes; then what
`decode` answers, said once for the words that decode and once for each check that fails; last the refusals. -/

/-! ## The word and its fields (R71) -/

section
namespace Sys2Proof

open Sys2Proof.Laws.RequestWord (packReq_fields)

/-- Each bit of the assembled word is a bit of the field that covers it. -/
theorem getLsbD_packReq (n : BitVec 8) (reg kind op : BitVec 4) (i : Nat) :
    (packReq n reg kind op).getLsbD i =
      if i < 4 then op.getLsbD i
      else if i < 8 then kind.getLsbD (i - 4)
      else if i < 12 then reg.getLsbD (i - 8)
      else n.getLsbD (i - 12) := by
  have opOut : 4 ≤ i → op.getLsbD i = false := BitVec.getLsbD_of_ge op i
  have kindOut : 8 ≤ i → kind.getLsbD (i - 4) = false := fun h => BitVec.getLsbD_of_ge kind _ (by omega)
  have regOut : 12 ≤ i → reg.getLsbD (i - 8) = false := fun h => BitVec.getLsbD_of_ge reg _ (by omega)
  have nOut : 32 ≤ i → n.getLsbD (i - 12) = false := fun h => BitVec.getLsbD_of_ge n _ (by omega)
  simp only [packReq, BitVec.getLsbD_or, BitVec.getLsbD_shiftLeft, BitVec.getLsbD_setWidth]
  grind

@[simp] theorem opField_packReq (n : BitVec 8) (reg kind op : BitVec 4) : opField (packReq n reg kind op) = op :=
  (packReq_fields n reg kind op).1

@[simp] theorem reservedField_packReq (n : BitVec 8) (reg kind op : BitVec 4) :
    reservedField (packReq n reg kind op) = 0 :=
  (packReq_fields n reg kind op).2

@[simp] theorem kindField_packReq (n : BitVec 8) (reg kind op : BitVec 4) :
    kindField (packReq n reg kind op) = kind := by
  ext i hi
  have inKind : ¬ 4 + i < 4 ∧ 4 + i < 8 ∧ 4 + i - 4 = i := by omega
  simp [kindField, getLsbD_packReq, inKind, hi, BitVec.getLsbD_eq_getElem]

@[simp] theorem regField_packReq (n : BitVec 8) (reg kind op : BitVec 4) : regField (packReq n reg kind op) = reg := by
  ext i hi
  have inReg : ¬ 8 + i < 4 ∧ 8 + i < 12 ∧ 8 + i - 8 = i := by omega
  simp [regField, getLsbD_packReq, inReg, hi, BitVec.getLsbD_eq_getElem]

@[simp] theorem nField_packReq (n : BitVec 8) (reg kind op : BitVec 4) : nField (packReq n reg kind op) = n := by
  ext i hi
  have inN : ¬ 12 + i < 4 ∧ ¬ 12 + i < 8 ∧ 12 + i - 12 = i := by omega
  simp [nField, getLsbD_packReq, inN, hi, BitVec.getLsbD_eq_getElem]

/-- A word with clear reserved bits is the one its fields assemble. -/
theorem packReq_of_fields {w : Word} (clear : reservedField w = 0) :
    packReq (nField w) (regField w) (kindField w) (opField w) = w := by
  apply BitVec.eq_of_getLsbD_eq
  intro i hi
  have above : 20 ≤ i → w.getLsbD i = false := by
    intro h
    have bit := congrArg (fun v => v.getLsbD (i - 20)) clear
    simpa [reservedField, show i - 20 < 12 by omega, show 20 + (i - 20) = i by omega] using bit
  simp only [getLsbD_packReq, opField, kindField, regField, nField, BitVec.getLsbD_extractLsb']
  grind

end Sys2Proof
end

/-! ## The kind codes (R74) -/

section
namespace Sys2Proof

/-- The code of a kind names that kind. -/
theorem decodeKind_code (k : Kind) : decodeKind k.code = .named k := by
  cases k with
  | single k => cases k <;> rfl
  | multi k => cases k <;> rfl

/-- Where the table of R74 lists a kind, its place there is its code. -/
theorem kindTable_code {c : BitVec 4} {k : Kind} (h : kindTable[c.toNat]? = some k) : k.code = c := by
  revert c k
  decide

/-- A code is read as the one well-formed kind field that holds it. -/
theorem decodeKind_eq_iff {c : BitVec 4} {f : KindField} : decodeKind c = f ↔ f.code = c ∧ f.wf = true := by
  constructor
  · rintro rfl
    unfold decodeKind
    split
    case h_1 k named => exact ⟨kindTable_code named, rfl⟩
    case h_2 reserved => exact ⟨rfl, by simpa [KindField.wf, kindTable] using reserved⟩
  · rintro ⟨rfl, wf⟩
    cases f with
    | named k => exact decodeKind_code k
    | reserved c =>
      have outside : kindTable[c.toNat]? = none := by simpa [KindField.wf, kindTable] using wf
      simp [decodeKind, KindField.code, outside]

end Sys2Proof
end

/-! ## What a word decodes to -/

section
namespace Sys2Proof

/-- `KIND` of an instruction's word; 0 where the operation does not use it (R73, R85). -/
@[simp] def Instr.kindCode : Instr → BitVec 4
  | .pec15 | .cmd | .write _ | .read _ | .wakeIdle _ | .wakeSleep _ | .initLimits _ => 0
  | .wrgrp kind _ _ | .rdgrp kind _ _ => kind.code

/-- `REG` of an instruction's word; 0 where the operation does not use it (R73, R85). -/
@[simp] def Instr.regCode : Instr → BitVec 4
  | .pec15 | .cmd | .write _ | .read _ | .wakeIdle _ | .wakeSleep _ => 0
  | .initLimits reg | .wrgrp _ reg _ | .rdgrp _ reg _ => reg

/-- `N` of an instruction's word; 0 where the operation does not use it (R73, R85). -/
@[simp] def Instr.nCode : Instr → BitVec 8
  | .pec15 | .cmd | .initLimits _ => 0
  | .write n | .read n | .wakeIdle n | .wakeSleep n | .wrgrp _ _ n | .rdgrp _ _ n => n

/-- Every word is assembled from the four fields of its instruction (R88). -/
theorem encode_eq_packReq (i : Instr) : encode i = packReq i.nCode i.regCode i.kindCode i.op := by
  cases i <;> rfl

/-- Field by field, `w` is the word of the well-formed instruction `i`. -/
structure IsWordOf (w : Word) (i : Instr) : Prop where
  reserved : reservedField w = 0
  op : opField w = i.op
  kind : kindField w = i.kindCode
  reg : regField w = i.regCode
  n : nField w = i.nCode
  wf : i.wf = true

theorem isWordOf_encode {i : Instr} (wf : i.wf = true) : IsWordOf (encode i) i := by
  rw [encode_eq_packReq]
  exact ⟨by simp, by simp, by simp, by simp, by simp, wf⟩

theorem IsWordOf.encode_eq {w : Word} {i : Instr} (h : IsWordOf w i) : encode i = w := by
  rw [encode_eq_packReq, ← h.n, ← h.reg, ← h.kind, ← h.op, packReq_of_fields h.reserved]

theorem requireZero_eq_ok {allZero : Bool} {i j : Instr} : requireZero allZero i = .ok j ↔ allZero = true ∧ i = j := by
  cases allZero <;> simp [requireZero]

/-- The reserved bits are checked first (R72). -/
theorem decode_reservedBits {w : Word} (set : reservedField w ≠ 0) : decode w = .error .reservedBits := if_pos set

/-- A word decodes to an instruction exactly if it is, field by field, the word of that well-formed instruction. -/
theorem decode_eq_ok {w : Word} {i : Instr} : decode w = .ok i ↔ IsWordOf w i := by
  constructor
  · intro dec
    have clear : reservedField w = 0 := by
      by_contra set
      simp [decode_reservedBits set] at dec
    simp only [decode, clear, ne_eq, not_true_eq_false, if_false] at dec
    split at dec
    case h_8 | h_9 =>
      obtain rfl := Except.ok.inj dec
      obtain ⟨code, wf⟩ := decodeKind_eq_iff.mp (rfl : decodeKind (kindField w) = _)
      exact ⟨clear, BitVec.eq_of_toNat_eq ‹_›, code.symm, rfl, rfl, wf⟩
    case h_10 => cases dec
    all_goals
      obtain ⟨zero, rfl⟩ := requireZero_eq_ok.mp dec
      simp only [Bool.and_eq_true, beq_iff_eq] at zero
      exact ⟨clear, BitVec.eq_of_toNat_eq ‹_›, by simp [zero], by simp [zero], by simp [zero], rfl⟩
  · rintro ⟨clear, op, kind, reg, n, wf⟩
    cases i
    case wrgrp f r m | rdgrp f r m =>
      have named : decodeKind (kindField w) = f := decodeKind_eq_iff.mpr ⟨kind.symm, wf⟩
      simp [decode, clear, op, named, reg, n, Instr.op]
    all_goals simp [decode, clear, op, kind, reg, n, Instr.op, requireZero]

/-- Settles O1: the word of a well-formed instruction has that instruction's fields, and `decode` reads the fields. -/
theorem decodeEncodeRoundTrip : Obligations.DecodeEncodeRoundTrip :=
  fun _ wf => decode_eq_ok.mpr (isWordOf_encode wf)

/-- Settles O2: a word that decodes has the fields of its instruction, and the fields make up the word. -/
theorem encodeDecodeRoundTrip : Obligations.EncodeDecodeRoundTrip :=
  fun _ _ dec => ⟨(decode_eq_ok.mp dec).encode_eq, (decode_eq_ok.mp dec).wf⟩

/-- Settles O3: the ten words are those of their instructions. -/
theorem requestWordsDecode : Obligations.RequestWordsDecode :=
  have rt := decodeEncodeRoundTrip
  ⟨rt .pec15 rfl, rt .cmd rfl, rt (.write 3) rfl, rt (.read 2) rfl, rt (.wakeIdle 2) rfl, rt (.wakeSleep 32) rfl,
   rt (.initLimits 2) rfl, rt (.wrgrp (.named (.single .cfga)) 0 2) rfl, rt (.rdgrp (.named (.multi .cv)) 5 1) rfl,
   rt (.rdgrp (.reserved 0xA) 0 1) rfl⟩

/-- Settles O6: each expansion is one instruction, whose word is assembled from its fields. -/
theorem pseudoOperationsAreOneRequest : Obligations.PseudoOperationsAreOneRequest := by
  intro n reg
  and_intros <;> exact encode_eq_packReq _

end Sys2Proof
end

/-! ## What is refused, and why (R72, R77, R85, R86) -/

section
namespace Sys2Proof

/-- No operation has op code 0 or one from `0xA` up (R86). -/
theorem decode_reservedOp {w : Word} (clear : reservedField w = 0) (out : opField w = 0 ∨ 10 ≤ (opField w).toNat) :
    decode w = .error .reservedOp := by
  have outside : (opField w).toNat = 0 ∨ 10 ≤ (opField w).toNat := out.imp_left fun zero => by simp [zero]
  simp only [decode, clear, ne_eq, not_true_eq_false, if_false]
  split
  case h_10 => rfl
  all_goals omega

/-- `PEC15` and `CMD` use no field (R85). -/
theorem decode_noOperands {w : Word} (clear : reservedField w = 0) (op : opField w = 1 ∨ opField w = 2)
    (set : kindField w ≠ 0 ∨ regField w ≠ 0 ∨ nField w ≠ 0) : decode w = .error .unusedField := by
  rcases op with op | op <;> simpa [decode, clear, op, requireZero, imp_iff_not_or, or_assoc] using set

/-- `WRITE`, `READ` and the wakes use `N` alone (R85). -/
theorem decode_chainSizeOnly {w : Word} (clear : reservedField w = 0)
    (op : opField w = 3 ∨ opField w = 4 ∨ opField w = 5 ∨ opField w = 6) (set : kindField w ≠ 0 ∨ regField w ≠ 0) :
    decode w = .error .unusedField := by
  rcases op with op | op | op | op <;> simpa [decode, clear, op, requireZero, imp_iff_not_or] using set

/-- `INIT_LIMITS` uses `REG` alone (R85). -/
theorem decode_initLimits {w : Word} (clear : reservedField w = 0) (op : opField w = 7)
    (set : kindField w ≠ 0 ∨ nField w ≠ 0) : decode w = .error .unusedField := by
  simpa [decode, clear, op, requireZero, imp_iff_not_or] using set

end Sys2Proof
end

section
namespace Sys2Proof.Machine

/-- When the block is idle, a request word that decodes to no operation is refused for the decoder's reason (R221). -/
theorem step_undecoded {s : State} {w : Word} {rest : List HostAccess} {e : DecodeError} (idle : s.seq = .idle)
    (next : s.host = .request w :: rest) (dec : decode w = .error e) : step s = .refused (refusalOf e) := by
  simp [step, nextAction, idle, next, dec]

/-- Settles O4: the reserved bits are the first check of `decode`. -/
theorem reservedBitsAreRefused : Obligations.ReservedBitsAreRefused :=
  fun _ _ _ idle next set => step_undecoded idle next (decode_reservedBits set)

/-- Settles O5: the step refuses for the check of `decode` that fails. -/
theorem requestCheckOrder : Obligations.RequestCheckOrder := by
  intro s w rest idle next clear
  exact ⟨fun out => step_undecoded idle next (decode_reservedOp clear out),
    fun op set => step_undecoded idle next (decode_noOperands clear op set),
    fun op set => step_undecoded idle next (decode_chainSizeOnly clear op set),
    fun op set => step_undecoded idle next (decode_initLimits clear op set)⟩

theorem chainSize_refused {n : BitVec 8} {s : State} (bad : ¬ goodSize n s) : chainSize n s = .refused .chainSize :=
  if_neg bad

/-- Settles O20: `N` is the first check of each of the six operations; of the three other words it is an unused field. -/
theorem chainSizeIsChecked : Obligations.ChainSizeIsChecked := by
  constructor
  · intro s n kind reg bad
    have stops {α : Type} (f : Nat → Host.Outcome α Fault Refusal) :
        andThen (chainSize n s) f = .refused .chainSize := by
      rw [chainSize_refused bad, andThen_refused]
    exact ⟨stops _, stops _, stops _, stops _, stops _, stops _⟩
  · intro w clear op set
    rcases op with op | op | op
    · exact decode_noOperands clear (.inl op) (.inr (.inr set))
    · exact decode_noOperands clear (.inr op) (.inr (.inr set))
    · exact decode_initLimits clear op (.inr set)

end Sys2Proof.Machine
end

/-! The proofs of the statements about the PEC (40_pec15.md). First the bit-serial register, one lemma for a bit and one
for a byte; then the table form against it; last the operation `PEC15`. -/

/-! ## The bit-serial register (R103) -/

section
namespace Sys2Proof.Machine

/-- The register is linear over XOR: with `x` added to it, the top bit of `x` goes in with the data bit, and the rest of
`x` moves up by one. -/
theorem pecBit_xor (r x : BitVec 15) (bit : Bool) :
    pecBit (r ^^^ x) bit = pecBit r (x.getLsbD 14 ^^ bit) ^^^ x <<< 1 := by
  have feedback : ((r ^^^ x).getLsbD 14 ^^ bit) = (r.getLsbD 14 ^^ (x.getLsbD 14 ^^ bit)) := by
    rw [BitVec.getLsbD_xor, Bool.xor_assoc]
  rw [pecBit, pecBit, feedback, BitVec.shiftLeft_xor_distrib]
  split <;> ac_rfl

/-- The polynomial is odd, so bit 0 shows whether it was added. -/
theorem getLsbD_zero_pecBit (r : BitVec 15) (bit : Bool) : (pecBit r bit).getLsbD 0 = (r.getLsbD 14 ^^ bit) := by
  unfold pecBit
  split <;> simp_all [Config.pecPoly]

/-- A data bit keeps different registers different: bit 0 gives back the top bit, the other bits the rest. -/
theorem pecBit_injective (bit : Bool) : Function.Injective (pecBit · bit) := by
  intro r x (same : pecBit r bit = pecBit x bit)
  have top : r.getLsbD 14 = x.getLsbD 14 := by
    have bit0 := congrArg (·.getLsbD 0) same
    simpa only [getLsbD_zero_pecBit, Bool.xor_left_inj] using bit0
  have shifted : r <<< 1 = x <<< 1 := by
    rw [pecBit, pecBit, top] at same
    split at same
    · exact (BitVec.xor_left_inj _).mp same
    · exact same
  ext i hi
  by_cases last : i = 14
  · subst last
    exact top
  · have moved := congrArg (·.getLsbD (i + 1)) shifted
    simpa [show i + 1 < 15 by omega] using moved

/-- The eight top bits of the register, which go in with the next byte (R101). -/
def pecTop (r : BitVec 15) : Byte := (r >>> 7).setWidth 8

/-- `pecBit_xor` at bit `i` of a byte, when `k` bits have gone before: the bit of `x` that goes in is bit `i` of its
top. -/
theorem pecBit_xor_shifted (r x : BitVec 15) (b : Byte) {k i : Nat} (place : k + i = 7) :
    pecBit (r ^^^ x <<< k) (b.getLsbD i) = pecBit r ((pecTop x ^^^ b).getLsbD i) ^^^ x <<< (k + 1) := by
  have fed : (x <<< k).getLsbD 14 = (pecTop x).getLsbD i := by
    rw [pecTop, BitVec.getLsbD_setWidth, BitVec.getLsbD_ushiftRight, BitVec.getLsbD_shiftLeft]
    simp [show i < 8 by omega, show ¬ 14 < k by omega, show 14 - k = 7 + i by omega]
  rw [pecBit_xor, fed, BitVec.getLsbD_xor, BitVec.shiftLeft_add]

/-- `pecBit_xor` for the eight bits of a byte. -/
theorem pecByte_xor (r x : BitVec 15) (b : Byte) :
    pecByte (r ^^^ x) b = pecByte r (pecTop x ^^^ b) ^^^ x <<< 8 := by
  have step (r : BitVec 15) (k i : Nat) (place : k + i = 7) := pecBit_xor_shifted r x b place
  have first := step r 0 7 rfl
  rw [BitVec.shiftLeft_zero] at first
  simp only [pecByte, List.foldl_cons, List.foldl_nil, first, step _ 1 6 rfl, step _ 2 5 rfl, step _ 3 4 rfl,
    step _ 4 3 rfl, step _ 5 2 rfl, step _ 6 1 rfl, step _ 7 0 rfl]

/-- A byte at the top of the register is the top of the register. -/
@[simp] theorem pecTop_byte (b : Byte) : pecTop (b.setWidth 15 <<< 7) = b := by
  ext i hi
  simp [pecTop, hi, show 7 + i < 15 by omega, show i < 15 by omega]

/-- Feeding a byte is adding it at the top of the register and feeding eight zero bits. -/
theorem pecByte_eq_zeros (r : BitVec 15) (b : Byte) : pecByte r b = pecByte (r ^^^ b.setWidth 15 <<< 7) 0#8 := by
  have out : b.setWidth 15 <<< 7 <<< 8 = 0#15 := by
    rw [← BitVec.shiftLeft_add, BitVec.shiftLeft_eq_zero]; decide
  rw [pecByte_xor, pecTop_byte, out, BitVec.xor_zero, BitVec.xor_zero]

/-- A fold whose steps keep different values different does so itself. -/
theorem foldl_injective {α β : Type} {f : β → α → β} (step : ∀ a, Function.Injective (f · a)) (l : List α) :
    Function.Injective (l.foldl f ·) := by
  induction l with
  | nil => exact Function.injective_id
  | cons a l ih => exact ih.comp (step a)

/-- A byte keeps different registers different. -/
theorem pecByte_injective (b : Byte) : Function.Injective (pecByte · b) :=
  foldl_injective (fun i => pecBit_injective (b.getLsbD i)) _

/-- Different bytes leave different registers. -/
theorem pecByte_byte_injective (r : BitVec 15) : Function.Injective (pecByte r) := by
  intro b c same
  rw [pecByte_eq_zeros, pecByte_eq_zeros r c] at same
  have tops := congrArg pecTop ((BitVec.xor_right_inj _).mp (pecByte_injective 0 same))
  rwa [pecTop_byte, pecTop_byte] at tops

/-- A list of bytes with one byte changed leaves another register. -/
theorem foldl_pecByte_set_ne (data : List Byte) (r : BitVec 15) {i : Nat} (h : i < data.length) {b : Byte}
    (ne : b ≠ data[i]) : (data.set i b).foldl pecByte r ≠ data.foldl pecByte r := by
  induction data generalizing r i with
  | nil => cases h
  | cons d ds ih =>
    cases i with
    | zero => exact fun same => ne (pecByte_byte_injective r (foldl_injective pecByte_injective ds same))
    | succ i => exact ih (pecByte r d) (Nat.lt_of_succ_lt_succ h) ne

end Sys2Proof.Machine
end

/-! ## The table form (R101, R102) -/

section
namespace Sys2Proof.Machine

/-- Settles O11, by computing the 256 entries. -/
theorem pecTableComesFromThePolynomial : Obligations.PecTableComesFromThePolynomial := by
  unfold Obligations.PecTableComesFromThePolynomial
  decide

/-- In its low 15 bits, a bit of the procedure that generates the table is a zero bit of the register. -/
theorem pecTableBit_setWidth (r : Half) : (Config.pecTableBit r).setWidth 15 = pecBit (r.setWidth 15) false := by
  have top : ((r.setWidth 15).getLsbD 14 ^^ false) = r.getLsbD 14 := by simp
  rw [Config.pecTableBit, pecBit, top]
  split
  · rw [BitVec.setWidth_xor, BitVec.setWidth_shiftLeft_of_le (by decide)]
  · rw [BitVec.setWidth_shiftLeft_of_le (by decide)]

/-- In its low 15 bits, an entry of the table is what its index, fed as a byte, leaves in a register that held 0. -/
theorem pecTableEntry_setWidth (i : Byte) : (Config.pecTableEntry i).setWidth 15 = pecByte 0#15 i := by
  have zeros (r : BitVec 15) : (List.range 8).foldl (fun r _ => pecBit r false) r = pecByte r 0#8 := rfl
  have start : (i.setWidth 16 <<< 7).setWidth 15 = 0#15 ^^^ i.setWidth 15 <<< 7 := by
    rw [BitVec.setWidth_shiftLeft_of_le (by decide), BitVec.setWidth_setWidth_of_le _ (by decide), BitVec.zero_xor]
  rw [Config.pecTableEntry, ← List.foldl_hom (g₂ := fun r _ => pecBit r false) (BitVec.setWidth 15)
    fun r _ => (pecTableBit_setWidth r).symm, zeros, start, ← pecByte_eq_zeros]

/-- The index into the table is the top of the register XOR the byte (R101). -/
theorem pecAddr_eq (rem : Half) (b : Byte) : pecAddr rem b = pecTop (rem.setWidth 15) ^^^ b := by
  ext i hi
  simp [pecAddr, pecTop, show 7 + i < 15 by omega, show i < 16 by omega]

/-- In the low 15 bits, a byte of the table form is a byte of the bit-serial form. -/
theorem pecStep_setWidth (rem : Half) (b : Byte) :
    (pecStep Config.pecTable rem b).setWidth 15 = pecByte (rem.setWidth 15) b := by
  calc (pecStep Config.pecTable rem b).setWidth 15
    _ = (rem.setWidth 15) <<< 8 ^^^ pecByte 0#15 (pecTop (rem.setWidth 15) ^^^ b) := by
      rw [pecStep, pecTableComesFromThePolynomial, BitVec.setWidth_xor, pecTableEntry_setWidth, pecAddr_eq,
        BitVec.setWidth_shiftLeft_of_le (by decide)]
    _ = pecByte (0#15 ^^^ rem.setWidth 15) b := by rw [pecByte_xor, BitVec.xor_comm]
    _ = pecByte (rem.setWidth 15) b := by rw [BitVec.zero_xor]

/-- The shift at the end drops bit 15 and puts 0 below the other bits (R101). -/
theorem shiftLeft_one_eq_append (rem : Half) : rem <<< 1 = rem.setWidth 15 ++ 0#1 := by
  rw [BitVec.setWidth_eq_extractLsb' (by decide)]
  exact BitVec.shiftLeft_eq_concat_of_lt (by decide)

/-- Settles O12: in the low 15 bits the two forms go byte by byte alike, and the last shift drops bit 15. -/
theorem pecTableFormIsTheBitSerialForm : Obligations.PecTableFormIsTheBitSerialForm := by
  intro data
  rw [pec15, shiftLeft_one_eq_append, pec15Bitwise,
    List.foldl_hom (BitVec.setWidth 15) fun r b => (pecStep_setWidth r b).symm]

/-- Settles O13: the two folds of the bit-serial form end in different registers, which are the PECs but for bit 0. -/
theorem pecChangesWithEveryBit : Obligations.PecChangesWithEveryBit := by
  constructor
  · intro data i h bit
    have mask : 1#8 <<< bit.val ≠ 0#8 := by revert bit; decide
    have flipped : data[i] ^^^ (1#8 <<< bit.val) ≠ data[i] := fun same =>
      mask ((BitVec.xor_right_inj data[i]).mp (same.trans BitVec.xor_zero.symm))
    rw [pecTableFormIsTheBitSerialForm, pecTableFormIsTheBitSerialForm]
    intro same
    exact foldl_pecByte_set_ne data _ h flipped ((BitVec.append_left_inj _).mp same)
  · intro data
    simp [pec15]

/-- Settles O15, by computation. -/
theorem pecCornerValues : Obligations.PecCornerValues := by
  unfold Obligations.PecCornerValues
  decide

end Sys2Proof.Machine
end

/-! ## The operation (R100, R105) -/

section
namespace Sys2Proof.Machine

/-- Reads of the same addresses answer the same where the two stores hold the same. -/
theorem Memory.readBytes_congr {m m' : Memory} {a k : Nat}
    (same : ∀ i < k, Memory.read m' (a + i) = Memory.read m (a + i)) :
    Memory.readBytes m' a k = Memory.readBytes m a k := by
  have each : ∀ i ∈ List.range k, Memory.readByte m' (a + i) = Memory.readByte m (a + i) := fun i mem => by
    rw [Memory.readByte, Memory.readByte, same i (List.mem_range.mp mem)]
  rw [Memory.readBytes, Memory.readBytes, List.map_congr_left each]

/-- With `ARG_LEN` written, the operand is the bytes of `BUF` below it (R78). -/
theorem pecOperand_of_argLen {s : State} {len : Byte} (written : s.argLen = .written len) :
    pecOperand s = Memory.readBytes s.buf 0 len.toNat := by
  rw [pecOperand, written, Slot.read_written, andThen_next]

/-- `PEC15` stops as the read of its operand stops. -/
theorem exec_pec15_fault {s : State} {e : Fault} (operand : pecOperand s = .fault e) : exec .pec15 s = .fault e := by
  change execPec15 s = .fault e
  rw [execPec15, operand, andThen_fault]

/-- Settles O16: the operand is the bytes that `BUF` holds. -/
theorem pec15PutsThePecInRes : Obligations.Pec15PutsThePecInRes := by
  intro s len data written length holds
  have operand : pecOperand s = .next data := by
    rw [pecOperand_of_argLen written, Memory.readBytes_eq_next]
    exact ⟨length, holds⟩
  exact execPec15_eq_next.mpr ⟨data, operand, rfl⟩

/-- Settles O17: each of the two parts of the operand faults while it is unwritten. -/
theorem pec15FaultsOnUnwrittenOperands : Obligations.Pec15FaultsOnUnwrittenOperands := by
  constructor
  · intro s unwritten
    exact exec_pec15_fault (by rw [pecOperand, unwritten, Slot.read_unwritten, andThen_fault])
  · intro s len i written inside unwritten
    apply exec_pec15_fault
    rw [pecOperand_of_argLen written]
    exact Memory.readBytes_fault inside (by rwa [Nat.zero_add])

/-- Settles O18: the operand is read below `ARG_LEN` alone, and what follows does not touch `BUF`. -/
theorem pec15IgnoresBytesPastLen : Obligations.Pec15IgnoresBytesPastLen := by
  intro s m len written same
  have operand : pecOperand (s.setBuf m) = pecOperand s := by
    rw [pecOperand_of_argLen written, pecOperand_of_argLen (s := s.setBuf m) written]
    exact Memory.readBytes_congr fun i inside => by simpa using same i inside
  exact sameOutcome_andThen operand fun _ _ => rfl

/-- Settles O52: the next state is written out by the lemma that says when each of the two completes. -/
theorem frameOfRegisterOperations : Obligations.FrameOfRegisterOperations := by
  constructor
  · intro s t run
    obtain ⟨data, -, rfl⟩ := execPec15_eq_next.mp run
    exact ⟨rfl, fun _ => ⟨rfl, rfl⟩⟩
  · intro s t numStat run
    obtain ⟨-, v, -, -, rfl⟩ := execInitLimits_eq_next.mp run
    exact ⟨rfl, fun _ => ⟨rfl, rfl⟩⟩

end Sys2Proof.Machine
end

/-! The proofs of the statements about framing (41_framing.md). First the PEC of a received group; then what
transactions leave on the bus; then `CMD`, `WRITE` and `READ`; then the frames of the operations that send and store; last
the round trip through the reference chain. -/

/-! ## A received group and its PEC (R127) -/

section
namespace Sys2Proof.Machine

theorem groupBad_eq_true {rom : Vector Half 256} {r : Group} :
    groupBad rom r = true ↔ pec15 rom (groupData r) ≠ groupPec r :=
  bne_iff_ne

/-- Whatever the table, the last shift of the PEC puts 0 into bit 0 (R101). -/
theorem getLsbD_zero_pec15 (rom : Vector Half 256) (data : List Byte) : (pec15 rom data).getLsbD 0 = false := by
  simp [pec15]

/-- Settles O14: the comparison is the definition's, and bit 0 alone tells an odd last byte from a PEC. -/
theorem receivedGroupIsBadOnPecMismatch : Obligations.ReceivedGroupIsBadOnPecMismatch := by
  intro rom r
  refine ⟨groupBad_eq_true, fun odd => groupBad_eq_true.mpr fun same => ?_⟩
  have bit0 : (groupPec r).getLsbD 0 = false := same ▸ getLsbD_zero_pec15 rom _
  rw [groupPec, BitVec.getLsbD_append, if_pos (by decide), odd] at bit0
  cases bit0

end Sys2Proof.Machine
end

/-! ## What transactions leave on the bus (R121) -/

section
namespace Sys2Proof.Machine

/-- The bus `b'` is `b` with whole CSB-low spans appended, and with `CSB` high if it was high. -/
def Bus.GrowsTo (b b' : Bus) : Prop :=
  ∃ es, b'.trace = b.trace ++ es ∧ traceScan true es = some true ∧ (b.csb = true → b'.csb = true)

theorem Bus.GrowsTo.refl (b : Bus) : b.GrowsTo b := ⟨[], by simp, rfl, id⟩

theorem Bus.GrowsTo.trans {a b c : Bus} (first : a.GrowsTo b) (second : b.GrowsTo c) : a.GrowsTo c := by
  obtain ⟨es, traceB, scanEs, csbB⟩ := first
  obtain ⟨fs, traceC, scanFs, csbC⟩ := second
  exact ⟨es ++ fs, by simp [traceC, traceB], by simp [traceScan_append, scanEs, scanFs], csbC ∘ csbB⟩

theorem sendTxn_grows (bytes : List Byte) (b : Bus) : b.GrowsTo (sendTxn bytes b) := by
  rw [sendTxn_eq]
  exact ⟨_, rfl, traceScan_span _, fun _ => rfl⟩

theorem readTxn_grows (rom : Vector Half 256) (n : Nat) (c : Half) (b : Bus) : b.GrowsTo (readTxn rom n c b).2 := by
  rw [readTxn_eq]
  exact ⟨_, rfl, traceScan_span _, fun _ => rfl⟩

theorem delay_grows (t : Nat) (b : Bus) : b.GrowsTo (b.delay t) := ⟨[.delay t], rfl, rfl, id⟩

theorem wakeIdlePulses_grows (gap k : Nat) (b : Bus) : b.GrowsTo (wakeIdlePulses gap k b) := by
  induction k generalizing b with
  | zero => exact .refl b
  | succ k ih =>
    have pulse : b.GrowsTo (wakeIdlePulse b) := wakeIdlePulse_eq b ▸ sendTxn_grows _ b
    unfold wakeIdlePulses
    split
    · exact (pulse.trans (delay_grows gap _)).trans (ih _)
    · exact pulse.trans (ih _)

theorem wakeSleepPulse_grows (b : Bus) : b.GrowsTo (wakeSleepPulse b) :=
  ⟨wakeSleepEvents, by simp [wakeSleepPulse, Bus.csLow, Bus.delay, Bus.csHigh, wakeSleepEvents, Config.tSleepLow,
    Config.tSleepWait], rfl, fun _ => rfl⟩

theorem wakeSleepPulses_grows (k : Nat) (b : Bus) : b.GrowsTo (wakeSleepPulses k b) := by
  induction k generalizing b with
  | zero => exact .refl b
  | succ k ih => exact (wakeSleepPulse_grows b).trans (ih _)

/-- The loop of `RDGRP` is one read transaction after another (R187). -/
theorem readGroups_grows (k : Kind) (n : Nat) (rev : Bool) (gs : List Nat) (s : State) :
    s.bus.GrowsTo (readGroups k n rev gs s).2.bus := by
  induction gs generalizing s with
  | nil => exact .refl _
  | cons g gs ih =>
    have first : s.bus.GrowsTo (readGroup k n rev g s).2.bus := readTxn_grows _ _ _ _
    exact first.trans (ih _)

theorem exec_grows {i : Instr} {s t : State} (run : exec i s = .next t) : s.bus.GrowsTo t.bus := by
  cases i with
  | pec15 =>
    obtain ⟨data, -, rfl⟩ := execPec15_eq_next.mp run
    exact .refl _
  | cmd =>
    obtain ⟨c, -, rfl⟩ := execCmd_eq_next.mp run
    exact sendTxn_grows _ _
  | write n =>
    obtain ⟨-, c, groups, -, -, rfl⟩ := execWrite_eq_next.mp run
    exact sendTxn_grows _ _
  | read n =>
    obtain ⟨-, c, -, rfl⟩ := execRead_eq_next.mp run
    exact readTxn_grows _ _ _ _
  | wakeIdle n =>
    obtain ⟨-, rfl⟩ := execWakeIdle_eq_next.mp run
    exact wakeIdlePulses_grows _ _ _
  | wakeSleep n =>
    obtain ⟨-, rfl⟩ := execWakeSleep_eq_next.mp run
    exact wakeSleepPulses_grows _ _
  | initLimits numStat =>
    obtain ⟨-, v, -, -, rfl⟩ := execInitLimits_eq_next.mp run
    exact .refl _
  | wrgrp kind reg n =>
    obtain ⟨-, k, rev, groups, -, -, -, -, rfl⟩ := execWrgrp_eq_next.mp run
    exact sendTxn_grows _ _
  | rdgrp kind reg n =>
    obtain ⟨-, k, gs, rev, -, -, -, rfl⟩ := execRdgrp_eq_next.mp run
    exact readGroups_grows k n.toNat rev gs s

/-- Settles O48: a wait and a host access leave the bus as it is, and every operation appends whole spans. -/
theorem traceGrowsByWholeSpans : Obligations.TraceGrowsByWholeSpans := by
  intro s t run
  change s.bus.GrowsTo t.bus
  obtain ⟨-, rfl⟩ | ⟨a, rest, -, -, access⟩ | ⟨w, rest, i, -, -, -, op⟩ := step_cases run
  · exact .refl _
  · have kept : t.bus = s.bus := (hostAccess_frame access).bus
    rw [kept]
    exact .refl _
  · have grown : ((s.setHost rest).timeouts.setReq w).bus.GrowsTo t.bus := exec_grows op
    exact grown

/-- A transaction that only sends appends one span, in which a byte is received for each byte sent. -/
theorem sendTxn_span (bytes : List Byte) (b : Bus) :
    ∃ rx, rx.length = bytes.length ∧ (sendTxn bytes b).trace = b.trace ++ spanEvents (bytes.zip rx) ∧
      (sendTxn bytes b).csb = true := by
  rw [sendTxn_eq]
  exact ⟨_, Draws.takeMany_length _ _ _, rfl, rfl⟩

/-- A read transaction appends one span, in which the fill byte is sent for each byte it returns (R82, R131). -/
theorem readTxn_span (rom : Vector Half 256) (n : Nat) (c : Half) (b : Bus) :
    ∃ cmdRx, cmdRx.length = 4 ∧
      (readTxn rom n c b).2.trace = b.trace ++ readEvents rom c cmdRx (readTxn rom n c b).1 ∧
      (readTxn rom n c b).2.csb = true := by
  refine ⟨(Draws.takeMany Config.freeByte 4 b.rx).1, Draws.takeMany_length _ _ _, ?_, by rw [readTxn_eq]⟩
  rw [readEvents, readTxn_length, readTxn_eq]
  rfl

/-- Draws that are set come out in their order, and those after them are still to come. -/
theorem Draws.takeMany_of_plan {α : Type} (free : Nat → α) {d : Draws α} {vs rest : List α}
    (set : d.plan = vs ++ rest) :
    Draws.takeMany free vs.length d = (vs, { plan := rest, drawn := d.drawn + vs.length }) := by
  rw [← Draws.takeMany_plan, ← set]

/-- Of the environment's answers, a read transaction discards the first 4 and returns the `8N` after them (R120,
R130). -/
theorem readTxn_of_plan (rom : Vector Half 256) {n : Nat} (c : Half) {b : Bus} {cmdRx rx rest : List Byte}
    (cmdLength : cmdRx.length = 4) (length : rx.length = 8 * n) (set : b.rx.plan = cmdRx ++ (rx ++ rest)) :
    (readTxn rom n c b).1 = rx ∧ (readTxn rom n c b).2.rx.plan = rest := by
  rw [readTxn_eq, cmdFrame_length, ← cmdLength, ← length, Draws.takeMany_of_plan _ set]
  dsimp only
  rw [Draws.takeMany_of_plan _ rfl]
  exact ⟨rfl, rfl⟩

end Sys2Proof.Machine
end

/-! ## Lists of blocks of one length -/

section
namespace Sys2Proof

variable {α β : Type} {f : α → List β} {m : Nat}

theorem length_flatMap_blocks {l : List α} (len : ∀ x ∈ l, (f x).length = m) : (l.flatMap f).length = m * l.length := by
  induction l with
  | nil => rfl
  | cons x l ih =>
    obtain ⟨here, rest⟩ := List.forall_mem_cons.mp len
    rw [List.flatMap_cons, List.length_append, here, ih rest, List.length_cons, Nat.mul_succ, Nat.add_comm]

/-- Block `j` of a list of blocks of length `m` begins at `m j`. -/
theorem take_drop_flatMap_blocks {l : List α} (len : ∀ x ∈ l, (f x).length = m) {j : Nat} (lt : j < l.length) :
    ((l.flatMap f).drop (m * j)).take m = f l[j] := by
  induction l generalizing j with
  | nil => cases lt
  | cons x l ih =>
    obtain ⟨here, rest⟩ := List.forall_mem_cons.mp len
    cases j with
    | zero => simp [← here]
    | succ j =>
      have past : m * (j + 1) = (f x).length + m * j := by rw [here, Nat.mul_succ, Nat.add_comm]
      rw [List.flatMap_cons, past, List.drop_length_add_append]
      exact ih rest (Nat.lt_of_succ_lt_succ lt)

end Sys2Proof
end

/-! ## `CMD`, `WRITE` and `READ` (R123, R125, R126) -/

section
namespace Sys2Proof.Machine

/-- A frame of groups of 6 bytes has 4 bytes and 8 for each group (R81). -/
theorem writeFrame_length (rom : Vector Half 256) (c : Half) {groups : List (List Byte)}
    (six : ∀ d ∈ groups, d.length = 6) : (writeFrame rom c groups).length = 4 + 8 * groups.length := by
  have eight : ∀ d ∈ groups.reverse, (groupFrame rom d).length = 8 := fun d mem => by
    rw [groupFrame_length, six d (List.mem_reverse.mp mem)]
  rw [writeFrame, List.length_append, length_flatMap_blocks eight, List.length_reverse, cmdFrame_length]

/-- Settles O21: the operation is one transaction that sends the command frame. -/
theorem cmdSendsTheCommandFrame : Obligations.CmdSendsTheCommandFrame := by
  intro s c written
  obtain ⟨rx, length, trace, csb⟩ := sendTxn_span (cmdFrame s.rom c) s.bus
  exact ⟨_, rx, execCmd_eq_next.mpr ⟨c, written, rfl⟩, length, trace, csb, rfl⟩

/-- Settles O22: the operation is one transaction that sends the write frame of the groups `BUF` holds. -/
theorem writeSendsTheLastGroupFirst : Obligations.WriteSendsTheLastGroupFirst := by
  intro s n c groups size written count holds
  have six : ∀ d ∈ groups, d.length = 6 := by
    intro d mem
    obtain ⟨p, lt, rfl⟩ := List.getElem_of_mem mem
    exact (holds p lt).1
  have operand : bufGroups n.toNat s = .next groups :=
    bufGroups_eq_next.mpr ⟨count, fun p lt => Memory.readBytes_eq_next.mpr (holds p lt)⟩
  obtain ⟨rx, length, trace, csb⟩ := sendTxn_span (writeFrame s.rom c groups) s.bus
  rw [writeFrame_length _ _ six, count] at length
  exact ⟨_, rx, execWrite_eq_next.mpr ⟨size, c, groups, written, operand, rfl⟩, length, trace, csb, rfl⟩

/-- The bytes written are held at their addresses. -/
theorem Memory.holdsBytes_writeBytes (m : Memory) (a : Nat) (bs : List Byte) :
    holdsBytes (Memory.writeBytes m a bs) a bs := by
  intro i lt
  rw [Memory.read_writeBytes, if_pos (by omega), Nat.add_sub_cancel_left, List.getElem?_eq_getElem lt]

/-- Addresses past the bytes written are as before. -/
theorem Memory.read_writeBytes_past (m : Memory) {i : Nat} {bs : List Byte} (past : bs.length ≤ i) :
    Memory.read (Memory.writeBytes m 0 bs) i = Memory.read m i := by
  rw [Memory.read_writeBytes, if_neg (by omega)]

/-- `RXBUF` past `8N` is as before a read transaction's bytes were stored (R126, R186). -/
theorem Memory.read_writeBytes_readTxn (m : Memory) (rom : Vector Half 256) {n : Nat} (c : Half) (b : Bus) {a : Nat}
    (past : 8 * n ≤ a) : Memory.read (Memory.writeBytes m 0 (readTxn rom n c b).1) a = Memory.read m a :=
  Memory.read_writeBytes_past m (by rwa [readTxn_length])

/-- The status word tells whether any of the `N` groups is bad (R30). -/
theorem statusWord_badFlags (rom : Vector Half 256) (n : Nat) (rx : List Byte) :
    ((∃ p < n, groupBad rom (groupAt rx p) = true) → statusWord ((badFlags rom n rx).any id) = 0xFFFF) ∧
    ((∀ p < n, groupBad rom (groupAt rx p) = false) → statusWord ((badFlags rom n rx).any id) = 0x0000) := by
  constructor
  · rintro ⟨p, lt, bad⟩
    have any : (badFlags rom n rx).any id = true := by simpa [badFlags] using ⟨p, lt, bad⟩
    rw [any]
    rfl
  · intro good
    have clean : (badFlags rom n rx).any id = false := by simpa [badFlags] using good
    rw [clean]
    rfl

/-- Settles O23: the operation is one read transaction, whose bytes and status it stores. -/
theorem readStoresWhatItReceives : Obligations.ReadStoresWhatItReceives := by
  intro s n c size written
  obtain ⟨cmdRx, cmdLength, trace, csb⟩ := readTxn_span s.rom n.toNat c s.bus
  obtain ⟨bad, good⟩ := statusWord_badFlags s.rom n.toNat (readTxn s.rom n.toNat c s.bus).1
  exact ⟨_, cmdRx, (readTxn s.rom n.toNat c s.bus).1, execRead_eq_next.mpr ⟨size, c, written, rfl⟩, cmdLength,
    readTxn_length _ _ _ _, trace, csb, Memory.holdsBytes_writeBytes _ _ _,
    fun _ => Memory.read_writeBytes_readTxn _ _ _ _, fun any => congrArg Slot.written (bad any),
    fun all => congrArg Slot.written (good all), rfl⟩

/-- Settles O24: the bytes stored are those the transaction returns, which are the answers after the first 4. -/
theorem readReceivesTheEnvironmentsBytes : Obligations.ReadReceivesTheEnvironmentsBytes := by
  intro s t n cmdRx rx rest cmdLength length set run
  obtain ⟨-, c, -, rfl⟩ := execRead_eq_next.mp run
  obtain ⟨received, left⟩ := readTxn_of_plan s.rom c cmdLength length set
  have stored := Memory.holdsBytes_writeBytes s.rxbuf 0 (readTxn s.rom n.toNat c s.bus).1
  rw [received] at stored
  exact ⟨by simpa [received] using stored, left⟩

/-- A read of several bytes answers them or faults. -/
theorem Memory.readBytes_next_or_fault (m : Memory) (a k : Nat) :
    (∃ bs, Memory.readBytes m a k = .next bs) ∨ Memory.readBytes m a k = .fault .unwritten := by
  by_cases gap : ∃ i < k, Memory.read m (a + i) = none
  · obtain ⟨i, lt, unlisted⟩ := gap
    exact .inr (Memory.readBytes_fault lt unlisted)
  · refine .inl ⟨(List.range k).map fun i => (Memory.read m (a + i)).getD 0, Memory.readBytes_eq_next.mpr ⟨by simp, ?_⟩⟩
    intro i lt
    cases byte : Memory.read m (a + i) with
    | none => exact absurd ⟨i, by simpa using lt, byte⟩ gap
    | some b => simp [byte]

/-- If a byte below `6N` is unlisted, the read of the `N` groups of `BUF` faults (R44, R125). -/
theorem bufGroups_fault {n i : Nat} {s : State} (lt : i < 6 * n) (unlisted : Memory.read s.buf i = none) :
    bufGroups n s = .fault .unwritten := by
  apply readAll_eq_fault
  · intro x mem
    obtain ⟨p, -, rfl⟩ := List.mem_map.mp mem
    exact Memory.readBytes_next_or_fault _ _ _
  · have place : 6 * (i / 6) + i % 6 = i := Nat.div_add_mod i 6
    exact List.mem_map.mpr ⟨i / 6, List.mem_range.mpr (by omega),
      Memory.readBytes_fault (Nat.mod_lt i (by omega)) (place.symm ▸ unlisted)⟩

/-- Settles O25: with `N` in range the first operand that is unwritten ends the operation. -/
theorem transactionsFaultOnUnwrittenOperands : Obligations.TransactionsFaultOnUnwrittenOperands := by
  have inRange {s : State} {n : BitVec 8} (size : goodSize n s) : chainSize n s = .next n.toNat := if_pos size
  refine ⟨fun s unwritten => ?cmd, fun s n size unwritten => ⟨?write, ?read⟩,
    fun s n c i size written lt unlisted => ?buf⟩
  case cmd => simp [exec, execCmd, unwritten]
  case write => simp [exec, execWrite, inRange size, unwritten]
  case read => simp [exec, execRead, inRange size, unwritten]
  case buf => simp [exec, execWrite, inRange size, written, bufGroups_fault lt unlisted]

end Sys2Proof.Machine
end

/-! ## What the sending and the storing operations leave alone (R258) -/

section
namespace Sys2Proof.Machine

/-- Settles O53: the next state is written out by the lemma that says when each of the four completes. -/
theorem frameOfSendingOperations : Obligations.FrameOfSendingOperations := by
  intro s t i n sends run
  obtain rfl | rfl | rfl | rfl := sends
  · obtain ⟨c, -, rfl⟩ := execCmd_eq_next.mp run
    exact ⟨rfl, fun _ => ⟨rfl, rfl⟩⟩
  · obtain ⟨-, c, groups, -, -, rfl⟩ := execWrite_eq_next.mp run
    exact ⟨rfl, fun _ => ⟨rfl, rfl⟩⟩
  · obtain ⟨-, rfl⟩ := execWakeIdle_eq_next.mp run
    exact ⟨rfl, fun _ => ⟨rfl, rfl⟩⟩
  · obtain ⟨-, rfl⟩ := execWakeSleep_eq_next.mp run
    exact ⟨rfl, fun _ => ⟨rfl, rfl⟩⟩

/-- What storing a received group of kind `k` in the mirror set `x`, which makes it `y`, leaves alone (R188). -/
structure Mirror.KeptBut (k : Kind) (x y : Mirror) : Prop where
  isospiReverse : y.isospiReverse = x.isospiReverse
  tx : ∀ k', (y.get k').tx = (x.get k').tx
  single : ∀ k', k ≠ .single k' → y.get k' = x.get k'
  cv : k ≠ .multi .cv → y.cv = x.cv
  aux : k ≠ .multi .aux → y.aux = x.aux
  stat : k ≠ .multi .stat → y.stat = x.stat

theorem Mirror.KeptBut.refl (k : Kind) (x : Mirror) : Mirror.KeptBut k x x := by
  constructor <;> intros <;> rfl

theorem Mirror.KeptBut.trans {k : Kind} {x y z : Mirror} (first : Mirror.KeptBut k x y)
    (second : Mirror.KeptBut k y z) : Mirror.KeptBut k x z where
  isospiReverse := second.isospiReverse.trans first.isospiReverse
  tx k' := (second.tx k').trans (first.tx k')
  single k' other := (second.single k' other).trans (first.single k' other)
  cv other := (second.cv other).trans (first.cv other)
  aux other := (second.aux other).trans (first.aux other)
  stat other := (second.stat other).trans (first.stat other)

theorem storeGroup_keptBut (k : Kind) (g : Nat) (r : Group) (bad : Bool) (x : Mirror) :
    Mirror.KeptBut k x (storeGroup k g r bad x) := by
  cases k with
  | single sk =>
    constructor
    case tx =>
      intro k'
      rw [storeGroup, Mirror.get_set]
      split
      · next same => rw [same]
      · rfl
    case single =>
      intro k' other
      rw [storeGroup, Mirror.get_set, if_neg fun same => other (congrArg Kind.single same)]
    all_goals intros; rfl
  | multi m =>
    cases m with
    | cv => exact { Mirror.KeptBut.refl (.multi .cv) x with cv := fun other => absurd rfl other }
    | aux => exact { Mirror.KeptBut.refl (.multi .aux) x with aux := fun other => absurd rfl other }
    | stat => exact { Mirror.KeptBut.refl (.multi .stat) x with stat := fun other => absurd rfl other }

/-- The mirror sets after one pass of the loop of `RDGRP` (R186). -/
theorem readGroup_mirror (k : Kind) {n : Nat} (small : n ≤ 32) (rev : Bool) (g : Nat) (s : State) (ic : Nat) :
    (readGroup k n rev g s).2.mirror ic =
      if ic < n then
        let r := groupAt (readTxn s.rom n (s.params.cmdCode k .rd g) s.bus).1 (mapIndex ic n rev)
        storeGroup k g r (groupBad s.rom r) (s.mirror ic)
      else s.mirror ic :=
  storeGroups_get _ _ _ _ _ _ _ _ small

/-- What the loop of `RDGRP` leaves alone in `RXBUF`, the mirrors and the tally (R186, R190). -/
structure ReadKept (k : Kind) (n : Nat) (s t : State) : Prop where
  rxbuf : ∀ a, 8 * n ≤ a → Memory.read t.rxbuf a = Memory.read s.rxbuf a
  mirror : ∀ ic, Mirror.KeptBut k (s.mirror ic) (t.mirror ic)
  crc : ∀ k', k ≠ k' → t.crc k' = s.crc k'

theorem readGroup_kept (k : Kind) {n : Nat} (small : n ≤ 32) (rev : Bool) (g : Nat) (s : State) :
    ReadKept k n s (readGroup k n rev g s).2 where
  rxbuf _ := Memory.read_writeBytes_readTxn _ _ _ _
  mirror ic := by
    rw [readGroup_mirror k small]
    split
    · exact storeGroup_keptBut _ _ _ _ _
    · exact .refl _ _
  crc k' other := Vector.getElem_set_ne (kindIndex k).isLt (kindIndex k').isLt fun same =>
    other (kindIndex_injective (Fin.ext same))

theorem readGroups_kept (k : Kind) {n : Nat} (small : n ≤ 32) (rev : Bool) (gs : List Nat) (s : State) :
    ReadKept k n s (readGroups k n rev gs s).2 := by
  induction gs generalizing s with
  | nil => exact ⟨fun _ _ => rfl, fun _ => .refl _ _, fun _ _ => rfl⟩
  | cons g gs ih =>
    have first := readGroup_kept k small rev g s
    have rest := ih (readGroup k n rev g s).2
    exact ⟨fun a past => (rest.rxbuf a past).trans (first.rxbuf a past),
      fun ic => (first.mirror ic).trans (rest.mirror ic),
      fun k' other => (rest.crc k' other).trans (first.crc k' other)⟩

/-- Settles O54: the bytes stored are `8N` of `RXBUF` or `6N` of `BUF`, and the loop of `RDGRP` keeps every other
kind. -/
theorem frameOfStoringOperations : Obligations.FrameOfStoringOperations := by
  refine ⟨fun s t n run => ?read, fun s t kind reg n run => ?wrgrp, fun s t kind reg n run => ?rdgrp⟩
  case read =>
    obtain ⟨-, c, -, rfl⟩ := execRead_eq_next.mp run
    exact ⟨rfl, fun _ => rfl, fun _ => Memory.read_writeBytes_readTxn _ _ _ _⟩
  case wrgrp =>
    obtain ⟨-, k, rev, groups, -, -, -, marshalled, rfl⟩ := execWrgrp_eq_next.mp run
    exact ⟨rfl, fun _ => rfl, fun _ past =>
      Memory.read_writeBytes_past _ (by rwa [txGroups_flatten_length marshalled])⟩
  case rdgrp =>
    obtain ⟨size, k, gs, rev, rfl, -, -, rfl⟩ := execRdgrp_eq_next.mp run
    have bound := s.params.maxIc_bounds
    have kept := readGroups_kept k (n := n.toNat) (by omega) rev gs s
    obtain ⟨bus, rxbuf, mirrors, counts, frame⟩ := readGroups_frame k n.toNat rev gs s
    have named {k' : Kind} (other : KindField.named k ≠ .named k') : k ≠ k' := fun same => other (congrArg _ same)
    refine ⟨by rw [frame]; rfl, fun _ => by rw [frame]; rfl, kept.rxbuf, fun ic => ?_⟩
    have mirror := kept.mirror ic
    exact ⟨mirror.isospiReverse, mirror.tx, fun k' other => mirror.single k' (named other),
      fun other => mirror.cv (named other), fun other => mirror.aux (named other),
      fun other => mirror.stat (named other), fun k' other => kept.crc k' (named other)⟩

end Sys2Proof.Machine
end

/-! ## The round trip through the reference chain (R133, R134)

On the way out, the frames of the trace, their command and their groups, and what the chain stores and answers; on the
way back, the groups that `RDGRP` takes out of that answer. -/

section
namespace Sys2Proof.Machine

/-- The two bytes of a word, high byte first, are the word (R54). -/
theorem hiByte_append_loByte (v : Half) : hiByte v ++ loByte v = v := by
  ext i hi
  simp only [hiByte, loByte, BitVec.getElem_append, BitVec.getElem_extractLsb']
  split
  · rw [Nat.zero_add, BitVec.getLsbD_eq_getElem]
  · rw [show 8 + (i - 8) = i by omega, BitVec.getLsbD_eq_getElem]

/-- A list of 6 bytes, byte by byte. -/
theorem exists_of_length_six {d : List Byte} (six : d.length = 6) :
    ∃ d0 d1 d2 d3 d4 d5, d = [d0, d1, d2, d3, d4, d5] :=
  match d, six with
  | [d0, d1, d2, d3, d4, d5], _ => ⟨d0, d1, d2, d3, d4, d5, rfl⟩

/-- A received group is the 8 bytes at its place (R129). -/
theorem groupAt_of_block {rx : List Byte} {p : Nat} {b0 b1 b2 b3 b4 b5 b6 b7 : Byte}
    (place : (rx.drop (8 * p)).take 8 = [b0, b1, b2, b3, b4, b5, b6, b7]) :
    groupAt rx p = #v[b0, b1, b2, b3, b4, b5, b6, b7] := by
  have byte (j : Nat) (lt : j < 8) : byteAt rx (8 * p + j) = [b0, b1, b2, b3, b4, b5, b6, b7].getD j 0 := by
    rw [← place, byteAt, List.getD_eq_getElem?_getD, List.getD_eq_getElem?_getD, List.getElem?_take_of_lt lt,
      List.getElem?_drop]
  have first : byteAt rx (8 * p) = b0 := byte 0 (by decide)
  simp [groupAt, first, byte 1, byte 2, byte 3, byte 4, byte 5, byte 6, byte 7]

/-! ### Out: `WRGRP` and the chain -/

/-- What an open span sends up to its end. -/
theorem framesFrom_exchanges (pairs : List (Byte × Byte)) (cur : List Byte) :
    framesFrom cur ((pairs.map fun p => BusEvent.xfer p.1 p.2) ++ [.csHigh]) = [cur ++ pairs.map Prod.fst] := by
  induction pairs generalizing cur with
  | nil => simp [framesFrom]
  | cons p pairs ih => simp [framesFrom, ih]

/-- The one frame of a span is the bytes sent in it (R121). -/
theorem framesFrom_span {bytes rx : List Byte} (length : rx.length = bytes.length) :
    framesFrom [] (spanEvents (bytes.zip rx)) = [bytes] := by
  have sent : (bytes.zip rx).map Prod.fst = bytes := List.map_fst_zip length.ge
  simpa [spanEvents, framesFrom, sent] using framesFrom_exchanges (bytes.zip rx) []

/-- The command of a write frame is read back from it (R133). -/
theorem frameCommand_writeFrame (rom : Vector Half 256) (c : Half) (groups : List (List Byte)) :
    frameCommand rom (writeFrame rom c groups) = some c := by
  simp [frameCommand, writeFrame, cmdFrame, hiByte_append_loByte]

/-- A group of 6 bytes is read back from its frame, which begins 4 bytes and `j` groups into the whole (R133). -/
theorem frameGroup_of_groupFrame {rom : Vector Half 256} {frame d : List Byte} {j : Nat} (six : d.length = 6)
    (place : (frame.drop (4 + 8 * j)).take 8 = groupFrame rom d) : frameGroup rom frame j = some d := by
  obtain ⟨d0, d1, d2, d3, d4, d5, rfl⟩ := exists_of_length_six six
  simp [frameGroup, place, groupFrame, hiByte_append_loByte]

/-- Where each store was given its group first, all of them are found (R133). -/
theorem mapM_lookupKey_zipWith (r : Nat) {groups : List (List Byte)} {stores : List (List (Nat × List Byte))}
    (count : stores.length = groups.length) :
    ((List.zipWith (fun d st => (r, d) :: st) groups stores).mapM fun st => lookupKey st r) = some groups := by
  induction groups generalizing stores with
  | nil => simp
  | cons d groups ih =>
    cases stores with
    | nil => cases count
    | cons st stores => simp [lookupKey, ih (Nat.succ.inj count)]

section
variable {rom : Vector Half 256} {groups : List (List Byte)} (six : ∀ d ∈ groups, d.length = 6)
include six

theorem groupFrame_eight {d : List Byte} (mem : d ∈ groups) : (groupFrame rom d).length = 8 := by
  rw [groupFrame_length, six d mem]

/-- IC `i` finds its group, the `(N-1-i)`-th sent, in a write frame (R128, R133). -/
theorem frameGroup_writeFrame (c : Half) {i : Nat} (lt : i < groups.length) :
    frameGroup rom (writeFrame rom c groups) (groups.length - 1 - i) = some groups[i] := by
  apply frameGroup_of_groupFrame (six _ (List.getElem_mem lt))
  have back : groups.length - 1 - i < groups.reverse.length := by rw [List.length_reverse]; omega
  have same : groups.reverse[groups.length - 1 - i] = groups[i] := by
    rw [List.getElem_reverse]
    congr 1
    omega
  rw [writeFrame, ← cmdFrame_length rom c, List.drop_length_add_append,
    take_drop_flatMap_blocks (fun d mem => groupFrame_eight six (List.mem_reverse.mp mem)) back, same]

/-- After a write frame each IC of the chain holds the group of its own position in the register addressed (R133). -/
theorem RefChain.afterFrame_writeFrame {ref : RefChain} {c : Half} {r : Nat} (count : ref.stores.length = groups.length)
    (dec : lookupKey ref.dec c = some (r, .wr)) :
    ref.afterFrame rom (writeFrame rom c groups) =
      { ref with stores := List.zipWith (fun d st => (r, d) :: st) groups ref.stores } := by
  simp only [RefChain.afterFrame, frameCommand_writeFrame, Option.bind_some, dec]
  congr 1
  apply List.ext_getElem
  · simp [count]
  · intro i lt _
    have inside : i < groups.length := by simpa [count] using lt
    simp [refStore, count, frameGroup_writeFrame six c inside]

/-- After the span of a write frame, the chain answers the read of the same register with the same groups (R133). -/
theorem RefChain.reply_afterEvents {ref : RefChain} {wr rd : Half} {r : Nat} {rx : List Byte}
    (count : ref.stores.length = groups.length) (decWr : lookupKey ref.dec wr = some (r, .wr))
    (decRd : lookupKey ref.dec rd = some (r, .rd)) (length : rx.length = (writeFrame rom wr groups).length) :
    (ref.afterEvents rom (spanEvents ((writeFrame rom wr groups).zip rx))).reply rom rd =
      some (groups.flatMap (groupFrame rom)) := by
  rw [RefChain.afterEvents, framesFrom_span length, List.foldl_cons, List.foldl_nil,
    RefChain.afterFrame_writeFrame six count decWr]
  simp [RefChain.reply, decRd, mapM_lookupKey_zipWith r count]

/-! ### Back: `RDGRP` -/

/-- Of the answer of the chain, each received group is the group sent, with its PEC right (R127, R133). -/
theorem groupAt_reply {p : Nat} (lt : p < groups.length) :
    let g := groupAt (groups.flatMap (groupFrame rom)) p
    groupData g = groups[p] ∧ groupBad rom g = false := by
  have block := take_drop_flatMap_blocks (fun d mem => groupFrame_eight (rom := rom) six mem) lt
  obtain ⟨d0, d1, d2, d3, d4, d5, eq⟩ := exists_of_length_six (six _ (List.getElem_mem lt))
  rw [eq] at block ⊢
  rw [groupAt_of_block block]
  exact ⟨rfl, by simp [groupBad, groupData, groupPec, hiByte_append_loByte]⟩

end

/-- Transmit mirrors that hold 6-byte groups are marshalled in shift order (R180, R184). -/
theorem txGroups_of_holdsTx {s : State} {k : SingleKind} {n : Nat} {d : Nat → List Byte} (rev : Bool)
    (holds : holdsTx s k n d) :
    ∃ groups, txGroups n rev k s = .next groups ∧ groups.length = n ∧ (∀ x ∈ groups, x.length = 6) ∧
      ∀ ic < n, groups[mapIndex ic n rev]? = some (d ic) := by
  refine ⟨(List.range n).map fun p => d (mapIndex p n rev), txGroups_eq_next.mpr ⟨by simp, ?each⟩, by simp, ?six, ?back⟩
  case each =>
    intro p lt
    have inside : p < n := by simpa using lt
    simpa using txGroup_eq_next.mpr (holds _ (mapIndex_lt inside))
  case six =>
    intro x mem
    obtain ⟨p, inside, rfl⟩ := List.mem_map.mp mem
    simpa using (congrArg List.length (holds _ (mapIndex_lt (List.mem_range.mp inside)))).symm
  case back =>
    intro ic lt
    simp [List.getElem?_range (mapIndex_lt lt), mapIndex_mapIndex lt]

/-- The receive mirror of an IC of the chain after one pass of the loop of `RDGRP` that receives `rx` (R186, R188). -/
theorem readGroup_get (k : SingleKind) {n : Nat} (small : n ≤ 32) (rev : Bool) (g : Nat) {s : State} {rx : List Byte}
    (received : (readTxn s.rom n (s.params.cmdCode (.single k) .rd g) s.bus).1 = rx) {ic : Nat} (lt : ic < n) :
    ((readGroup (.single k) n rev g s).2.mirror ic).get k =
      { (s.mirror ic).get k with
        rx := .written (groupAt rx (mapIndex ic n rev))
        pecErr := .written (groupBad s.rom (groupAt rx (mapIndex ic n rev))) } := by
  subst received
  rw [readGroup_mirror _ small, if_pos lt]
  exact (Mirror.get_set _ _ _ _).trans (if_pos rfl)

/-- If the environment's answer to `RDGRP` is the frames of 6-byte groups, the receive mirrors hold these groups, and
no group is bad (R186, R188). -/
theorem rdgrp_of_groups {s : State} {n : BitVec 8} {reg : BitVec 4} {k : SingleKind} {rev : Bool}
    {groups : List (List Byte)} {cmdRx rest : List Byte} (size : goodSize n s) (regOk : reg.toNat ≤ 1)
    (flags : sameFlags s n.toNat rev) (six : ∀ d ∈ groups, d.length = 6) (count : groups.length = n.toNat)
    (cmdLength : cmdRx.length = 4)
    (set : s.bus.rx.plan = cmdRx ++ (groups.flatMap (groupFrame s.rom) ++ rest)) :
    ∃ v, exec (.rdgrp (.named (.single k)) reg n) s = .next v ∧
      ∀ ic < n.toNat, ((v.mirror ic).get k).pecErr = .written false ∧
        ∃ g, ((v.mirror ic).get k).rx = .written g ∧ groups[mapIndex ic n.toNat rev]? = some (groupData g) := by
  refine ⟨_, execRdgrp_eq_next.mpr ⟨size, _, [1], rev, rfl, selectGroups_single.mpr ⟨regOk, rfl⟩, flags, rfl⟩, ?_⟩
  intro ic lt
  have bound := s.params.maxIc_bounds
  have received : (readTxn s.rom n.toNat (s.params.cmdCode (.single k) .rd 1) s.bus).1 =
      groups.flatMap (groupFrame s.rom) :=
    (readTxn_of_plan _ _ cmdLength
      (by rw [length_flatMap_blocks fun d mem => groupFrame_eight six mem, count]) set).1
  have stored := readGroup_get k (n := n.toNat) (by omega) rev 1 received lt
  have inside : mapIndex ic n.toNat rev < groups.length := by rw [count]; exact mapIndex_lt lt
  obtain ⟨data, good⟩ := groupAt_reply (rom := s.rom) six inside
  rw [good] at stored
  refine ⟨congrArg SingleMirror.pecErr stored, _, congrArg SingleMirror.rx stored, ?_⟩
  rw [data, List.getElem?_eq_getElem inside]

/-- `WRGRP` sends the write frame of the groups it marshals in one span, and keeps the mirrors (R184). -/
theorem wrgrp_of_groups {s : State} {n : BitVec 8} {reg : BitVec 4} {k : SingleKind} {rev : Bool}
    {groups : List (List Byte)} (size : goodSize n s) (regOk : reg.toNat ≤ 1) (flags : sameFlags s n.toNat rev)
    (marshalled : txGroups n.toNat rev k s = .next groups) :
    let frame := writeFrame s.rom (s.params.cmdCode (.single k) .wr 1) groups
    ∃ t rx, exec (.wrgrp (.named (.single k)) reg n) s = .next t ∧ rx.length = frame.length ∧
      t.bus.trace = s.bus.trace ++ spanEvents (frame.zip rx) ∧
      t = { s with bus := t.bus, chain := t.chain, buf := t.buf } := by
  intro frame
  obtain ⟨rx, length, trace, -⟩ := sendTxn_span frame s.bus
  exact ⟨_, rx, execWrgrp_eq_next.mpr ⟨size, k, rev, groups, rfl, regOk, flags, marshalled, rfl⟩, length, trace, rfl⟩

/-- The state with the environment's next answers set (R120). -/
def State.setAnswers (s : State) (answers : List Byte) : State :=
  s.setBus { s.bus with rx := { s.bus.rx with plan := answers } }

/-- Settles O44: the chain stores the groups of the span that `WRGRP` sends and answers `RDGRP` with them, and the index
mapping, applied on both ways, is its own inverse. -/
theorem writeThenReadRoundTrip : Obligations.WriteThenReadRoundTrip := by
  intro s n wrReg rdReg k rev d ref r cmdRx rest size wrOk rdOk flags holds count decWr decRd cmdLength
  obtain ⟨groups, marshalled, length, six, back⟩ := txGroups_of_holdsTx rev holds
  obtain ⟨t, rx, wrote, rxLength, trace, frame⟩ := wrgrp_of_groups size wrOk flags marshalled
  have reply := RefChain.reply_afterEvents six (count.trans length.symm) decWr decRd rxLength
  generalize t.bus = bus, t.chain = chain, t.buf = buf at frame
  subst frame
  obtain ⟨v, read, mirrors⟩ := rdgrp_of_groups
    (s := State.setAnswers { s with bus, chain, buf } (cmdRx ++ (groups.flatMap (groupFrame s.rom) ++ rest)))
    size rdOk flags six length cmdLength rfl
  refine ⟨_, _, v, wrote, ?_, read, fun ic lt => ?_⟩
  · rw [trace, List.drop_left, reply]
  · obtain ⟨pec, g, rx, data⟩ := mirrors ic lt
    exact ⟨pec, g, rx, Option.some.inj (data.symm.trans (back ic lt))⟩

end Sys2Proof.Machine
end

/-! The proofs of the statements about waking the chain (42_wakeup.md). First the pulses on the bus; then the conditions
after a wake; last that nothing else raises a condition. -/

/-! ## The pulses (R151, R152) -/

section
namespace Sys2Proof.Machine

/-- A pulse of `WAKE_IDLE` appends one span of the dummy byte (R151). -/
theorem wakeIdlePulse_span (b : Bus) :
    ∃ rx, (wakeIdlePulse b).trace = b.trace ++ spanEvents [(Config.wakeDummyByte, rx)] ∧
      (wakeIdlePulse b).csb = true := by
  rw [wakeIdlePulse_eq, sendTxn_eq]
  exact ⟨_, rfl, rfl⟩

/-- The bus after the gap between two pulses of `WAKE_IDLE`, which is an event where it is above 0 (R151). -/
def Bus.afterGap (gap : Nat) (b : Bus) : Bus := if 0 < gap then b.delay gap else b

theorem Bus.afterGap_trace (gap : Nat) (b : Bus) :
    (b.afterGap gap).trace = b.trace ++ if 0 < gap then [.delay gap] else [] := by
  unfold Bus.afterGap
  split
  · rfl
  · simp

/-- A pulse of `WAKE_IDLE` that is not the last is followed by the gap (R151). -/
theorem wakeIdlePulses_succ_succ (gap k : Nat) (b : Bus) :
    wakeIdlePulses gap (k + 2) b = wakeIdlePulses gap (k + 1) ((wakeIdlePulse b).afterGap gap) := by
  simp [wakeIdlePulses, Bus.afterGap]

/-- An event list of `WAKE_IDLE` goes on after the gap while bytes are left. -/
theorem wakeIdleEvents_cons (gap : Nat) (rx : Byte) {rxs : List Byte} (more : rxs ≠ []) :
    wakeIdleEvents gap (rx :: rxs) = spanEvents [(Config.wakeDummyByte, rx)] ++
      (if 0 < gap then [.delay gap] else []) ++ wakeIdleEvents gap rxs := by
  cases rxs with
  | nil => exact absurd rfl more
  | cons rx' rxs => rfl

/-- One pulse or more of `WAKE_IDLE`: their events, with one byte received for each, and `CSB` high after the last. -/
theorem wakeIdlePulses_events (gap k : Nat) (b : Bus) :
    ∃ rxs, rxs.length = k + 1 ∧ (wakeIdlePulses gap (k + 1) b).trace = b.trace ++ wakeIdleEvents gap rxs ∧
      (wakeIdlePulses gap (k + 1) b).csb = true := by
  induction k generalizing b with
  | zero =>
    obtain ⟨rx, trace, csb⟩ := wakeIdlePulse_span b
    exact ⟨[rx], rfl, trace, csb⟩
  | succ k ih =>
    obtain ⟨rx, first, -⟩ := wakeIdlePulse_span b
    obtain ⟨rxs, length, trace, csb⟩ := ih ((wakeIdlePulse b).afterGap gap)
    have more : rxs ≠ [] := List.ne_nil_of_length_eq_add_one length
    rw [wakeIdlePulses_succ_succ]
    refine ⟨rx :: rxs, by rw [List.length_cons, length], ?_, csb⟩
    rw [trace, Bus.afterGap_trace, first, wakeIdleEvents_cons gap rx more]
    simp only [List.append_assoc]

/-- Settles O26: `N` is at least 1, and the pulses are all the operation does to the bus. -/
theorem wakeIdlePulsesEveryPosition : Obligations.WakeIdlePulsesEveryPosition := by
  intro s n size
  obtain ⟨k, count⟩ := Nat.exists_eq_add_of_le' size.1
  obtain ⟨rxs, length, trace, csb⟩ := wakeIdlePulses_events s.params.tIdleGap k s.bus
  rw [← count] at length trace csb
  exact ⟨_, rxs, execWakeIdle_eq_next.mpr ⟨size, rfl⟩, length, trace, csb, rfl⟩

/-- A pulse of `WAKE_SLEEP` draws no byte (R152). -/
theorem wakeSleepPulse_eq (b : Bus) :
    wakeSleepPulse b = { csb := true, trace := b.trace ++ wakeSleepEvents, rx := b.rx } := by
  simp [wakeSleepPulse, Bus.csLow, Bus.csHigh, Bus.delay, wakeSleepEvents, Config.tSleepLow, Config.tSleepWait]

/-- One pulse or more of `WAKE_SLEEP`: their events, `CSB` high after the last, and no byte drawn (R152). -/
theorem wakeSleepPulses_eq (k : Nat) (b : Bus) :
    wakeSleepPulses (k + 1) b =
      { csb := true, trace := b.trace ++ (List.replicate (k + 1) wakeSleepEvents).flatten, rx := b.rx } := by
  induction k generalizing b with
  | zero => simp [wakeSleepPulses, wakeSleepPulse_eq]
  | succ k ih =>
    rw [wakeSleepPulses, ih, wakeSleepPulse_eq, List.replicate_succ (n := k + 1), List.flatten_cons,
      List.append_assoc]

theorem leastMicroseconds_append (es fs : List BusEvent) :
    leastMicroseconds (es ++ fs) = leastMicroseconds es + leastMicroseconds fs := by
  simp [leastMicroseconds]

theorem leastMicroseconds_replicate (k : Nat) (es : List BusEvent) :
    leastMicroseconds (List.replicate k es).flatten = leastMicroseconds es * k := by
  induction k with
  | zero => rfl
  | succ k ih =>
    rw [List.replicate_succ, List.flatten_cons, leastMicroseconds_append, ih, Nat.mul_succ, Nat.add_comm]

/-- Settles O27: `N` is at least 1, and each pulse takes 300 and 10 units (R8, R160). -/
theorem wakeSleepHoldsCsbLow : Obligations.WakeSleepHoldsCsbLow := by
  intro s n size
  obtain ⟨k, count⟩ := Nat.exists_eq_add_of_le' size.1
  have bus := wakeSleepPulses_eq k s.bus
  rw [← count] at bus
  have pulse : leastMicroseconds wakeSleepEvents = 310 := rfl
  refine ⟨_, execWakeSleep_eq_next.mpr ⟨size, rfl⟩, ?_⟩
  rw [bus]
  exact ⟨rfl, rfl, by simp [leastMicroseconds_append, leastMicroseconds_replicate, pulse], rfl, rfl⟩

end Sys2Proof.Machine
end

/-! ## The conditions after a wake (R153 to R155, R159) -/

section
namespace Sys2Proof.Machine

section
variable {n i : Nat}

theorem wakeIdleCond_awake {x : Cond} (below : i < n) (awake : x ≠ .sleep) (drawn : Cond) :
    wakeIdleCond n i x drawn = .ready := by
  cases x with
  | sleep => exact absurd rfl awake
  | idle | ready => exact if_pos below

theorem wakeIdleCond_drawn {x : Cond} (rest : x = .sleep ∨ n ≤ i) (drawn : Cond) :
    wakeIdleCond n i x drawn = drawn := by
  unfold wakeIdleCond
  split
  · next below =>
    obtain rfl : x = .sleep := rest.resolve_right (Nat.not_le.mpr below)
    rfl
  · rfl

theorem wakeSleepCond_below (below : i < n) (x drawn : Cond) : wakeSleepCond n i x drawn = .ready := if_pos below

theorem wakeSleepCond_above (above : n ≤ i) (x drawn : Cond) : wakeSleepCond n i x drawn = drawn :=
  if_neg (Nat.not_lt.mpr above)

end

/-- Settles O28: the effect of the wake on one IC, whatever the draw. -/
theorem wakeIdleMakesIdleIcsReady : Obligations.WakeIdleMakesIdleIcsReady := by
  intro s t n run
  obtain ⟨-, rfl⟩ := execWakeIdle_eq_next.mp run
  refine ⟨Chain.wake_length _ _, fun i below idleOrReady => ?_⟩
  obtain ⟨x, was, awake⟩ : ∃ x, s.chain.cond[i]? = some x ∧ x ≠ .sleep :=
    idleOrReady.elim (fun idle => ⟨_, idle, nofun⟩) (fun ready => ⟨_, ready, nofun⟩)
  obtain ⟨drawn, after⟩ := Chain.wake_cond (f := wakeIdleCond n.toNat) was
  rwa [wakeIdleCond_awake below awake] at after

/-- Settles O29: the effect of the wake on one IC, whatever its condition and the draw. -/
theorem wakeSleepMakesEveryIcReady : Obligations.WakeSleepMakesEveryIcReady := by
  intro s t n run
  obtain ⟨-, rfl⟩ := execWakeSleep_eq_next.mp run
  refine ⟨Chain.wake_length _ _, fun i below inside => ?_⟩
  obtain ⟨drawn, after⟩ := Chain.wake_cond (f := wakeSleepCond n.toNat) (List.getElem?_eq_getElem inside)
  rwa [wakeSleepCond_below below] at after

/-- Of the draws taken, each that was set in the plan is the value set there. -/
theorem Draws.takeMany_getElem? {α : Type} (free : Nat → α) {k i : Nat} {d : Draws α} {y : α} (lt : i < k)
    (set : d.plan[i]? = some y) : (Draws.takeMany free k d).1[i]? = some y := by
  induction k generalizing i d with
  | zero => cases lt
  | succ k ih =>
    cases i with
    | zero => simp [Draws.takeMany, Draws.take, List.head?_eq_getElem?, set]
    | succ i => exact ih (Nat.lt_of_succ_lt_succ lt) (by simpa [Draws.take] using set)

/-- Where the plan sets a draw for an IC, the wake's result comes from that draw. -/
theorem Chain.wake_cond_of_plan {f : Nat → Cond → Cond → Cond} {c : Chain} {i : Nat} {x y : Cond}
    (was : c.cond[i]? = some x) (set : c.draws.plan[i]? = some y) : (c.wake f).cond[i]? = some (f i x y) := by
  obtain ⟨inside, -⟩ := List.getElem?_eq_some_iff.mp was
  simpa [Chain.wake] using wakeConds_getElem f 0 i _ _ was (Draws.takeMany_getElem? Config.freeCond inside set)

/-- Settles O30: the draw set for the IC is the one the wake takes for it, and the wake's result is that draw. -/
theorem wakesLeaveTheRestToTheEnvironment : Obligations.WakesLeaveTheRestToTheEnvironment := by
  constructor
  · intro s t n i x y run was set rest
    obtain ⟨-, rfl⟩ := execWakeIdle_eq_next.mp run
    have after := Chain.wake_cond_of_plan (f := wakeIdleCond n.toNat) was set
    rwa [wakeIdleCond_drawn rest] at after
  · intro s t n i x y run was set above
    obtain ⟨-, rfl⟩ := execWakeSleep_eq_next.mp run
    have after := Chain.wake_cond_of_plan (f := wakeSleepCond n.toNat) was set
    rwa [wakeSleepCond_above above] at after

end Sys2Proof.Machine
end

/-! ## What raises no condition (R156) -/

section
namespace Sys2Proof.Machine

/-- Every IC is in `c'` in its condition of `c` or a lower one. -/
def Chain.NoneRisen (c c' : Chain) : Prop :=
  ∀ (p : Nat) (x : Cond), c.cond[p]? = some x → ∃ y, c'.cond[p]? = some y ∧ condRank y ≤ condRank x

theorem Chain.NoneRisen.refl (c : Chain) : c.NoneRisen c := fun _ x was => ⟨x, was, Nat.le_refl _⟩

theorem condRank_condLower_le (x drawn : Cond) : condRank (condLower x drawn) ≤ condRank x := by
  cases x <;> cases drawn <;> decide

theorem Chain.noneRisen_timeouts (c : Chain) : c.NoneRisen c.timeouts := by
  intro p x was
  obtain ⟨drawn, after⟩ := Chain.timeouts_cond was
  exact ⟨_, after, condRank_condLower_le x drawn⟩

/-- An operation that is no wake leaves the chain as it is, or lets it time out if it transfers (R156, log 7). -/
theorem exec_chain {i : Instr} {s t : State} (notIdle : ∀ n, i ≠ .wakeIdle n) (notSleep : ∀ n, i ≠ .wakeSleep n)
    (run : exec i s = .next t) : t.chain = s.chain ∨ t.chain = s.chain.timeouts := by
  cases i with
  | wakeIdle n => exact absurd rfl (notIdle n)
  | wakeSleep n => exact absurd rfl (notSleep n)
  | pec15 =>
    obtain ⟨data, -, rfl⟩ := execPec15_eq_next.mp run
    exact .inl rfl
  | initLimits numStat =>
    obtain ⟨-, v, -, -, rfl⟩ := execInitLimits_eq_next.mp run
    exact .inl rfl
  | cmd =>
    obtain ⟨c, -, rfl⟩ := execCmd_eq_next.mp run
    exact .inr rfl
  | write n =>
    obtain ⟨-, c, groups, -, -, rfl⟩ := execWrite_eq_next.mp run
    exact .inr rfl
  | read n =>
    obtain ⟨-, c, -, rfl⟩ := execRead_eq_next.mp run
    exact .inr rfl
  | wrgrp kind reg n =>
    obtain ⟨-, k, rev, groups, -, -, -, -, rfl⟩ := execWrgrp_eq_next.mp run
    exact .inr rfl
  | rdgrp kind reg n =>
    obtain ⟨-, k, gs, rev, -, -, -, rfl⟩ := execRdgrp_eq_next.mp run
    obtain ⟨bus, rxbuf, mirrors, counts, frame⟩ := readGroups_frame k n.toNat rev gs s
    rw [frame]
    exact .inr rfl

/-- A step that is no request leaves the chain to its timeouts (R156). -/
theorem step_chain {s t : State} (noRequest : ∀ w rest, s.host ≠ .request w :: rest) (run : step s = .next t) :
    t.chain = s.chain.timeouts := by
  obtain ⟨-, rfl⟩ | ⟨a, rest, -, -, access⟩ | ⟨w, rest, i, -, request, -, -⟩ := step_cases run
  · rfl
  · exact (hostAccess_frame access).chain
  · exact absurd request (noRequest w rest)

/-- Settles O31: all that acts on the chain besides a wake is a timeout, which lowers. -/
theorem onlyWakesRaiseACondition : Obligations.OnlyWakesRaiseACondition := by
  constructor
  · intro s t i notIdle notSleep run
    change s.chain.NoneRisen t.chain
    rcases exec_chain notIdle notSleep run with kept | lowered
    · exact kept ▸ .refl _
    · exact lowered ▸ s.chain.noneRisen_timeouts
  · intro s t noRequest run
    change s.chain.NoneRisen t.chain
    exact step_chain noRequest run ▸ s.chain.noneRisen_timeouts

end Sys2Proof.Machine
end

/-! The proofs of the statements about register access (43_register_access.md). First `INIT_LIMITS` and the fields that
no operation decodes; then where `WRGRP` and `RDGRP` stop; then what `WRGRP` sends; last what the loop of `RDGRP`
receives and where it stores it. -/

/-! ## `INIT_LIMITS` (R182) and the fields never decoded (R193) -/

section
namespace Sys2Proof.Machine

/-- The ranges of the limits, one by one (R182). -/
theorem limitsOk_iff {l : Limits} :
    limitsOk l = true ↔ (l.cellCh.toNat ≤ 18 ∧ l.auxCh.toNat ≤ 9 ∧ l.statCh.toNat ≤ 4) ∧
      (1 ≤ l.numCv.toNat ∧ l.numCv.toNat ≤ 6) ∧ (1 ≤ l.numGpio.toNat ∧ l.numGpio.toNat ≤ 4) ∧
      (1 ≤ l.numStat.toNat ∧ l.numStat.toNat ≤ 2) ∧ l.cellCh.toNat ≤ 3 * l.numCv.toNat := by
  simp only [limitsOk, Bool.and_eq_true, decide_eq_true_eq, and_assoc]

/-- Settles O32: every check passes, and the limits loaded are those that `ARG_LIM` and `REG` give. -/
theorem initLimitsLoadsTheLimits : Obligations.InitLimitsLoadsTheLimits := by
  intro s v numStat unset written cell aux stat cvLow cvHigh gpioLow gpioHigh statLow statHigh fits
  have ok : limitsOk (limitsOf v numStat) = true :=
    limitsOk_iff.mpr ⟨⟨cell, aux, stat⟩, ⟨cvLow, cvHigh⟩, ⟨gpioLow, gpioHigh⟩, ⟨statLow, statHigh⟩, fits⟩
  exact execInitLimits_eq_next.mpr ⟨unset, v, written, ok, rfl⟩

/-- Settles O33: one clause for each check, in the order in which they are made. -/
theorem initLimitsStops : Obligations.InitLimitsStops := by
  refine ⟨fun s numStat set => ?set, fun s numStat unset unwritten => ?unwritten,
    fun s v numStat unset written out => ?range⟩
  case set => simp [exec, execInitLimits, set]
  case unwritten => simp [exec, execInitLimits, unset, unwritten]
  case range =>
    have bad : limitsOk (limitsOf v numStat) = false := by
      rw [← Bool.not_eq_true, limitsOk_iff]
      simp only [limitsOf]
      bv_omega
    simp [exec, execInitLimits, unset, written, bad]

/-- Settles O60: the invariant says that these fields hold what reset left, and that is unwritten. -/
theorem undecodedFieldsAlwaysFault : Obligations.UndecodedFieldsAlwaysFault := by
  intro s ic inv
  obtain ⟨aCodes, statCodes, flags, muxFail, thsd⟩ := inv.undecodedMirrors ic.val
  simp only [readRoValue, readMirror_eq_fault]
  refine ⟨fun i _ => ?_, fun i _ => ?_, fun i _ => ?_, fun _ => muxFail, fun _ => thsd⟩
  · simp [aCodes, Mirror.reset]
  · simp [statCodes, Mirror.reset]
  · simp [flags, Mirror.reset]

end Sys2Proof.Machine
end

/-! ## Where `WRGRP` and `RDGRP` stop (R75, R76, R181, R184, R186) -/

section
namespace Sys2Proof.Machine

theorem chainSize_inRange {n : BitVec 8} {s : State} (size : goodSize n s) : chainSize n s = .next n.toNat :=
  if_pos size

/-- A selector in range selects its groups (R76). -/
theorem selectGroups_of_selectable {k : Kind} {reg : BitVec 4} {s : State} (ok : selectable k reg s) :
    selectGroups k reg s = .next (selected k reg s) := by
  cases k with
  | single sk => exact selectGroups_single.mpr ⟨ok, rfl⟩
  | multi m => exact selectGroups_multi.mpr ⟨ok.1, ok.2, by simp [selected, ← BitVec.toNat_inj]⟩

/-- Settles O41: one clause for each check, in the order in which they are made. -/
theorem rdgrpStops : Obligations.RdgrpStops := by
  refine ⟨fun s n reg code size => ?reserved, fun s n reg k size out => ?single, fun s n reg m size unset => ?unset,
    fun s n reg m size set out => ?multi⟩
  case reserved => simp [exec, execRdgrp, chainSize_inRange size, readableKind]
  case single => simp [exec, execRdgrp, chainSize_inRange size, readableKind, selectGroups, Nat.not_le.mpr out]
  case unset => simp [exec, execRdgrp, chainSize_inRange size, readableKind, selectGroups, State.readLimits, unset]
  case multi =>
    simp [exec, execRdgrp, chainSize_inRange size, readableKind, selectGroups, State.readLimits, set,
      Nat.not_le.mpr out]

/-- A list of reads answers values or faults, if each of them does. -/
theorem readAll_next_or_fault {α : Type} {xs : List (Host.Outcome α Fault Refusal)}
    (kinds : ∀ x ∈ xs, (∃ a, x = .next a) ∨ x = .fault .unwritten) :
    (∃ as, readAll xs = .next as) ∨ readAll xs = .fault .unwritten := by
  induction xs with
  | nil => exact .inl ⟨[], rfl⟩
  | cons x xs ih =>
    obtain ⟨here, rest⟩ := List.forall_mem_cons.mp kinds
    rcases here with ⟨a, rfl⟩ | rfl
    · rcases ih rest with ⟨as, eq⟩ | eq
      · exact .inl ⟨a :: as, by simp [readAll, eq]⟩
      · exact .inr (by simp [readAll, eq])
    · exact .inr rfl

theorem Slot.read_next_or_fault {α : Type} (x : Slot α) :
    (∃ v, Slot.read x = .next v) ∨ Slot.read x = .fault .unwritten := by
  cases x with
  | unwritten => exact .inr rfl
  | written v => exact .inl ⟨v, rfl⟩

/-- If a transmit byte of an addressed IC is unwritten, nothing is marshalled (R44, R184). -/
theorem txGroups_fault {n ic : Nat} (rev : Bool) {k : SingleKind} {s : State} {j : Fin 6} (lt : ic < n)
    (unwritten : ((s.mirror ic).get k).tx[j] = .unwritten) : txGroups n rev k s = .fault .unwritten := by
  have slots (ic' : Nat) : ∀ x ∈ ((s.mirror ic').get k).tx.toList.map Slot.read,
      (∃ b, x = .next b) ∨ x = .fault .unwritten := fun x mem => by
    obtain ⟨slot, -, rfl⟩ := List.mem_map.mp mem
    exact slot.read_next_or_fault
  apply readAll_eq_fault
  · intro x mem
    obtain ⟨p, -, rfl⟩ := List.mem_map.mp mem
    exact readAll_next_or_fault (slots _)
  · refine List.mem_map.mpr ⟨mapIndex ic n rev, List.mem_range.mpr (mapIndex_lt lt), ?_⟩
    rw [mapIndex_mapIndex lt]
    have mem : Slot.unwritten ∈ ((s.mirror ic).get k).tx.toList := by simp [← unwritten]
    exact readAll_eq_fault (slots ic) (List.mem_map.mpr ⟨_, mem, rfl⟩)

/-- Settles O36: the kind and the group are checked first, and after the reverse flags the transmit bytes are read. -/
theorem wrgrpStops : Obligations.WrgrpStops := by
  refine ⟨fun s n reg kind size other => ?kind, fun s n reg k size out => ?group,
    fun s n reg k rev ic j size regOk flags lt unwritten => ?byte⟩
  case kind =>
    have refused : writableKind kind = .refused .kindNotWritable := by
      rcases kind with (k | m) | code
      · exact absurd rfl (other k)
      · rfl
      · rfl
    simp [exec, execWrgrp, chainSize_inRange size, refused]
  case group => simp [exec, execWrgrp, chainSize_inRange size, writableKind, Nat.not_le.mpr out]
  case byte =>
    have reverse : chainReverse n.toNat s = .next rev := (chainReverse_eq_next size.1).mpr flags
    simp [exec, execWrgrp, chainSize_inRange size, writableKind, regOk, reverse, txGroups_fault rev lt unwritten]

/-- The loop of `REV` gets to the first IC of its list whose flag is not known to be `rev` (R181). -/
theorem checkReverse_append {s : State} {rev : Bool} {before : List Nat} (after : List Nat)
    (same : ∀ ic ∈ before, (s.mirror ic).isospiReverse = .written rev) :
    checkReverse s rev (before ++ after) = checkReverse s rev after := by
  induction before with
  | nil => rfl
  | cons ic before ih =>
    obtain ⟨here, rest⟩ := List.forall_mem_cons.mp same
    simp [checkReverse, reverseFlag, here, ih rest]

/-- If `M[0 .. ic-1]` hold the flag `rev`, `REV(N)` goes on to `M[ic]` (R181). -/
theorem chainReverse_of_sameFlags {s : State} {n ic : Nat} {rev : Bool} (pos : 0 < ic) (lt : ic < n)
    (same : sameFlags s ic rev) :
    ∃ after, chainReverse n s = andThen (checkReverse s rev (ic :: after)) fun _ => .next rev := by
  have split : List.range' 1 (n - 1) = List.range' 1 (ic - 1) ++ ic :: List.range' (ic + 1) (n - 1 - ic) := by
    rw [← List.range'_succ, show n - 1 = (ic - 1) + (n - 1 - ic + 1) by omega, ← List.range'_append_1]
    congr 2 <;> omega
  have below : ∀ i ∈ List.range' 1 (ic - 1), (s.mirror i).isospiReverse = .written rev := fun i mem =>
    same i (by have := List.mem_range'_1.mp mem; omega)
  refine ⟨List.range' (ic + 1) (n - 1 - ic), ?_⟩
  rw [chainReverse, reverseFlag, same 0 pos, Slot.read_written, andThen_next, split, checkReverse_append _ below]

/-- Settles O37: with the checks before it passed, either operation goes on with `REV(N)` and stops as that stops. -/
theorem reverseFlagsAreChecked : Obligations.ReverseFlagsAreChecked := by
  intro s n reg i size form
  obtain ⟨rest, run⟩ : ∃ rest, exec i s = andThen (chainReverse n.toNat s) rest := by
    rcases form with ⟨k, rfl, regOk⟩ | ⟨k, rfl, ok⟩
    · exact ⟨_, by simp only [exec, execWrgrp, chainSize_inRange size, writableKind, regOk, decide_true, require_true,
        andThen_next]; rfl⟩
    · exact ⟨_, by simp only [exec, execRdgrp, chainSize_inRange size, readableKind, selectGroups_of_selectable ok,
        andThen_next]; rfl⟩
  rw [run]
  refine ⟨fun unwritten => by simp [chainReverse, reverseFlag, unwritten], fun rev ic pos lt same => ?_⟩
  obtain ⟨after, loop⟩ := chainReverse_of_sameFlags pos lt same
  rw [loop]
  exact ⟨fun differs => by simp [checkReverse, reverseFlag, differs],
    fun unwritten => by simp [checkReverse, reverseFlag, unwritten]⟩

end Sys2Proof.Machine
end

/-! ## What `WRGRP` sends (R180, R184) -/

section
namespace Sys2Proof

/-- Item `i` of block `j` of a list of blocks of length `m` is at place `m j + i`. -/
theorem getElem?_flatMap_blocks {α β : Type} {f : α → List β} {m : Nat} {l : List α}
    (len : ∀ x ∈ l, (f x).length = m) {i j : Nat} (lt : j < l.length) (inside : i < m) :
    (l.flatMap f)[m * j + i]? = (f l[j])[i]? := by
  rw [← take_drop_flatMap_blocks len lt, List.getElem?_take_of_lt inside, List.getElem?_drop]

end Sys2Proof

namespace Sys2Proof.Machine

/-- Blocks of 6 bytes written one after the other from address 0 are read back at their places (R28). -/
theorem Memory.read_writeBytes_flatten (m : Memory) {groups : List (List Byte)} (six : ∀ d ∈ groups, d.length = 6)
    {p j : Nat} (lt : p < groups.length) (inside : j < 6) :
    Memory.read (Memory.writeBytes m 0 groups.flatten) (6 * p + j) = groups[p][j]? := by
  have length : (groups.flatMap id).length = 6 * groups.length := length_flatMap_blocks six
  have place : (groups.flatMap id)[6 * p + j]? = groups[p][j]? := getElem?_flatMap_blocks six lt inside
  rw [← List.flatMap_id, Memory.read_writeBytes, if_pos (by omega), Nat.sub_zero, place]

/-- Settles O35: the groups marshalled are the transmit mirrors in shift order; they are written to `BUF` one after the
other and sent in one span. -/
theorem wrgrpSendsTheTransmitMirrors : Obligations.WrgrpSendsTheTransmitMirrors := by
  intro s n reg k rev d size regOk flags holds
  obtain ⟨groups, marshalled, count, six, back⟩ := txGroups_of_holdsTx rev holds
  have at_p {p : Nat} (lt : p < n.toNat) : groups[p]? = some (d (mapIndex p n.toNat rev)) := by
    simpa only [mapIndex_mapIndex lt] using back _ (mapIndex_lt (rev := rev) lt)
  have inOrder : groups = (List.range n.toNat).map fun p => d (mapIndex p n.toNat rev) := by
    apply List.ext_getElem
    · simp [count]
    · intro p lt _
      simpa [List.getElem_eq_iff] using at_p (count ▸ lt)
  obtain ⟨rx, length, trace, csb⟩ :=
    sendTxn_span (writeFrame s.rom (s.params.cmdCode (.single k) .wr 1) groups) s.bus
  refine ⟨_, rx, execWrgrp_eq_next.mpr ⟨size, k, rev, groups, rfl, regOk, flags, marshalled, rfl⟩, ?length,
    trace.trans ?sent, csb, fun p lt j inside => ?marshalled, fun a past => ?past, rfl⟩
  case length => rw [length, writeFrame_length _ _ six, count]
  case sent => simp [writeFrame, inOrder, List.flatMap_def, mapIndex, Function.comp_def]
  case marshalled =>
    have index : p < groups.length := count.symm ▸ lt
    have here : groups[p] = d (mapIndex p n.toNat rev) := (List.getElem_eq_iff _).mpr (at_p lt)
    refine (Memory.read_writeBytes_flatten s.buf six index inside).trans ?_
    rw [here, mapIndex]
  case past => exact Memory.read_writeBytes_past _ (by rwa [txGroups_flatten_length marshalled])

end Sys2Proof.Machine
end

/-! ## What the loop of `RDGRP` receives (R186, R187, R190) -/

section
namespace Sys2Proof.Machine

/-- The bytes that one pass of the loop of `RDGRP` receives: the 4 of the command phase, which are discarded, and the
`8N` after them (R130). -/
def passBytes (k : Kind) (n g : Nat) (s : State) : List Byte × List Byte :=
  ((Draws.takeMany Config.freeByte 4 s.bus.rx).1, (readTxn s.rom n (s.params.cmdCode k .rd g) s.bus).1)

/-- The bytes that each pass of the loop of `RDGRP` receives. -/
def loopBytes (k : Kind) (n : Nat) (rev : Bool) : List Nat → State → List (List Byte × List Byte)
  | [], _ => []
  | g :: gs, s => passBytes k n g s :: loopBytes k n rev gs (readGroup k n rev g s).2

section
variable (k : Kind) (n : Nat) (rev : Bool) (g : Nat) (gs : List Nat) (s : State)

@[simp] theorem readGroup_rom : (readGroup k n rev g s).2.rom = s.rom := rfl
@[simp] theorem readGroup_params : (readGroup k n rev g s).2.params = s.params := rfl

theorem passBytes_length : (passBytes k n g s).1.length = 4 ∧ (passBytes k n g s).2.length = 8 * n :=
  ⟨Draws.takeMany_length _ _ _, readTxn_length _ _ _ _⟩

@[simp] theorem loopBytes_length : (loopBytes k n rev gs s).length = gs.length := by
  induction gs generalizing s with
  | nil => rfl
  | cons g gs ih => simp [loopBytes, ih]

theorem length_of_mem_loopBytes {r : List Byte × List Byte} (mem : r ∈ loopBytes k n rev gs s) :
    r.1.length = 4 ∧ r.2.length = 8 * n := by
  induction gs generalizing s with
  | nil => cases mem
  | cons g gs ih =>
    rcases List.mem_cons.mp mem with rfl | rest
    · exact passBytes_length _ _ _ _
    · exact ih _ rest

/-- A read transaction appends its events, in which the first 4 draws answer the command frame (R129). -/
theorem readTxn_trace (rom : Vector Half 256) (c : Half) (b : Bus) : (readTxn rom n c b).2.trace = b.trace ++
    readEvents rom c (Draws.takeMany Config.freeByte 4 b.rx).1 (readTxn rom n c b).1 := by
  rw [readEvents, readTxn_length, readTxn_eq]
  rfl

theorem readGroup_trace : (readGroup k n rev g s).2.bus.trace = s.bus.trace ++
    readEvents s.rom (s.params.cmdCode k .rd g) (passBytes k n g s).1 (passBytes k n g s).2 :=
  readTxn_trace n s.rom (s.params.cmdCode k .rd g) s.bus

/-- The loop appends the events of one read transaction for each group, in their order (R187). -/
theorem readGroups_trace : (readGroups k n rev gs s).2.bus.trace = s.bus.trace ++
    ((gs.zip (loopBytes k n rev gs s)).map fun x =>
      readEvents s.rom (s.params.cmdCode k .rd x.1) x.2.1 x.2.2).flatten := by
  induction gs generalizing s with
  | nil => simp [readGroups, loopBytes]
  | cons g gs ih => simp [readGroups, loopBytes, ih, readGroup_trace]

/-- `RXBUF` holds the bytes of the last pass (R186). -/
theorem readGroups_rxbuf {r : List Byte × List Byte} (last : (loopBytes k n rev gs s).getLast? = some r) :
    holdsBytes (readGroups k n rev gs s).2.rxbuf 0 r.2 := by
  induction gs generalizing s with
  | nil => cases last
  | cons g gs ih =>
    cases gs with
    | nil =>
      cases last
      exact Memory.holdsBytes_writeBytes s.rxbuf 0 (passBytes k n g s).2
    | cons g' gs =>
      rw [loopBytes, loopBytes, List.getLast?_cons_cons] at last
      exact ih (readGroup k n rev g s).2 last

/-- After a pass, and so after every loop that has one, `CSB` is high (R39, R187). -/
theorem readGroups_csb (high : gs ≠ [] ∨ s.bus.csb = true) : (readGroups k n rev gs s).2.bus.csb = true := by
  induction gs generalizing s with
  | nil => exact high.resolve_left fun some => some rfl
  | cons g gs ih =>
    have first : (readGroup k n rev g s).2.bus.csb = true := by simp [readGroup, readTxn_eq]
    exact ih (readGroup k n rev g s).2 (.inr first)

/-- Counting up for each bad group adds their number, modulo 2^16 (R190). -/
theorem tallyCrc_eq (counts : Vector Half 10) (bad : List Bool) :
    tallyCrc counts k bad = counts.set (kindIndex k) (counts[kindIndex k] + BitVec.ofNat 16 (bad.count true)) := by
  have tally (v : Half) : bad.foldl (fun v b => if b then v + 1 else v) v = v + BitVec.ofNat 16 (bad.count true) := by
    induction bad generalizing v with
    | nil => simp
    | cons b bad ih =>
      cases b with
      | false => exact (ih v).trans (by simp)
      | true =>
        refine (ih (v + 1)).trans ?_
        rw [List.count_cons_self, Nat.add_comm, BitVec.ofNat_add, BitVec.add_assoc]
        rfl
  rw [tallyCrc, tally]

/-- The tally grows by the number of bad groups of all passes (R190). -/
theorem readGroups_crcCount : (readGroups k n rev gs s).2.crcCount = s.crcCount.set (kindIndex k)
    (s.crc k + BitVec.ofNat 16 ((loopBytes k n rev gs s).map fun r => (badFlags s.rom n r.2).count true).sum) := by
  induction gs generalizing s with
  | nil => simp [readGroups, loopBytes, State.crc]
  | cons g gs ih =>
    have first : (readGroup k n rev g s).2.crcCount = s.crcCount.set (kindIndex k)
        (s.crc k + BitVec.ofNat 16 ((badFlags s.rom n (passBytes k n g s).2).count true)) := tallyCrc_eq _ _ _
    simp [readGroups, loopBytes, ih, State.crc, first, BitVec.ofNat_add, BitVec.add_assoc]

/-- The loop tells whether any group of any pass is bad (R30). -/
theorem readGroups_anyBad : (readGroups k n rev gs s).1 = true ↔
    ∃ r ∈ loopBytes k n rev gs s, ∃ p < n, groupBad s.rom (groupAt r.2 p) = true := by
  induction gs generalizing s with
  | nil => simp [readGroups, loopBytes]
  | cons g gs ih =>
    have first : (readGroup k n rev g s).1 = true ↔
        ∃ p < n, groupBad s.rom (groupAt (passBytes k n g s).2 p) = true := by
      simp [readGroup, badFlags, passBytes]
    simp [readGroups, loopBytes, ih, first]

end

end Sys2Proof.Machine
end

/-! ## Where the loop of `RDGRP` stores what it receives (R186, R188, R189) -/

section
namespace Sys2Proof.Machine

section
variable {k : Kind} {n : Nat} (small : n ≤ 32) {gs : List Nat} {γ : Type} (view : Mirror → γ)
include small

/-- What no group of the loop changes is as before in every mirror set. -/
theorem readGroups_view_kept (kept : ∀ g ∈ gs, ∀ r bad x, view (storeGroup k g r bad x) = view x) (rev : Bool)
    (s : State) (ic : Nat) : view ((readGroups k n rev gs s).2.mirror ic) = view (s.mirror ic) := by
  induction gs generalizing s with
  | nil => rfl
  | cons g gs ih =>
    obtain ⟨here, rest⟩ := List.forall_mem_cons.mp kept
    refine (ih rest (readGroup k n rev g s).2).trans ?_
    rw [readGroup_mirror k small]
    split
    · exact here _ _ _
    · rfl

/-- What only one group of the loop changes is as that group, received once, left it. -/
theorem readGroups_view_stored {rev : Bool} {s : State} {ic j g : Nat} {r : List Byte × List Byte}
    (kept : ∀ h ∈ gs, h ≠ g → ∀ r bad x, view (storeGroup k h r bad x) = view x) (nodup : gs.Nodup) (lt : ic < n)
    (group : gs[j]? = some g) (received : (loopBytes k n rev gs s)[j]? = some r) :
    ∃ x, view ((readGroups k n rev gs s).2.mirror ic) =
      view (storeGroup k g (groupAt r.2 (mapIndex ic n rev)) (groupBad s.rom (groupAt r.2 (mapIndex ic n rev))) x) := by
  induction gs generalizing s j with
  | nil => cases group
  | cons g' gs ih =>
    obtain ⟨fresh, distinct⟩ := List.nodup_cons.mp nodup
    obtain ⟨-, keptAfter⟩ := List.forall_mem_cons.mp kept
    cases j with
    | zero =>
      cases group
      cases received
      have after : ∀ h ∈ gs, ∀ r bad x, view (storeGroup k h r bad x) = view x := fun h mem =>
        keptAfter h mem fun same => fresh (same ▸ mem)
      refine ⟨s.mirror ic, (readGroups_view_kept small view after rev (readGroup k n rev g s).2 ic).trans ?_⟩
      rw [readGroup_mirror k small, if_pos lt]
      rfl
    | succ j => exact ih keptAfter distinct group received

end

/-- A group of a kind with several groups is in its mirror with its flag once it is stored (R188). -/
theorem lastGroup_storeGroup_same {m : MultiKind} {g : Nat} (pos : 1 ≤ g) (room : g ≤ groupRoom m) (r : Group)
    (bad : Bool) (x : Mirror) : lastGroup m (storeGroup (.multi m) g r bad x) g = (.written r, .written bad) := by
  have inside : g - 1 < groupRoom m := by omega
  cases m <;> simp only [groupRoom] at inside <;> simp [lastGroup, storeGroup, inside]

/-- Storing one group leaves the others (R188). -/
theorem lastGroup_storeGroup_other {m : MultiKind} {g g' : Nat} (pos : 1 ≤ g) (pos' : 1 ≤ g') (other : g ≠ g')
    (r : Group) (bad : Bool) (x : Mirror) : lastGroup m (storeGroup (.multi m) g r bad x) g' = lastGroup m x g' := by
  have apart : g - 1 ≠ g' - 1 := by omega
  cases m <;> simp [lastGroup, storeGroup, Vector.getElem?_setIfInBounds_ne apart]

/-- What the mirror set holds of cell-voltage group `g`: the raw group, its flag and its three codes (R34). -/
def cellGroup (g : Nat) (x : Mirror) : (Slot Group × Slot Bool) × (Fin 3 → Option (Slot Half)) :=
  (lastGroup .cv x g, fun i => x.cv.cCodes[3 * (g - 1) + i.val]?)

/-- A cell-voltage group is in its mirror with its flag and its codes once it is stored (R189). -/
theorem cellGroup_storeGroup_same {g : Nat} (pos : 1 ≤ g) (room : g ≤ 6) (r : Group) (bad : Bool) (x : Mirror) :
    cellGroup g (storeGroup (.multi .cv) g r bad x) =
      ((.written r, .written bad), fun i => some (.written (cellCode r i))) := by
  refine Prod.ext (lastGroup_storeGroup_same (m := .cv) pos room r bad x) (funext fun i => ?_)
  have inside : 3 * (g - 1) + 2 < 18 := by omega
  fin_cases i <;> simp [cellGroup, storeGroup, decodeCells, Vector.getElem?_setIfInBounds] <;> omega

/-- Storing one cell-voltage group leaves the others and their codes (R189). -/
theorem cellGroup_storeGroup_other {g g' : Nat} (pos : 1 ≤ g) (pos' : 1 ≤ g') (other : g ≠ g') (r : Group) (bad : Bool)
    (x : Mirror) : cellGroup g' (storeGroup (.multi .cv) g r bad x) = cellGroup g' x := by
  refine Prod.ext (lastGroup_storeGroup_other (m := .cv) pos pos' other r bad x) (funext fun i => ?_)
  simp only [cellGroup, storeGroup, decodeCells]
  rw [Vector.getElem?_setIfInBounds_ne (by omega), Vector.getElem?_setIfInBounds_ne (by omega),
    Vector.getElem?_setIfInBounds_ne (by omega)]

theorem sameButReceived_refl (m : MultiKind) (x : Mirror) : sameButReceived m x x := by
  cases m <;> rfl

theorem sameButReceived_trans {m : MultiKind} {x y z : Mirror} (first : sameButReceived m x y)
    (second : sameButReceived m y z) : sameButReceived m x z := by
  cases m with
  | cv => exact second.trans (congrArg (fun w : Mirror => { w with cv := z.cv }) first)
  | aux =>
    exact second.trans (congrArg (fun w : Mirror =>
      { w with aux := { w.aux with raw := z.aux.raw, pecErr := z.aux.pecErr } }) first)
  | stat =>
    exact second.trans (congrArg (fun w : Mirror =>
      { w with stat := { w.stat with raw := z.stat.raw, pecErr := z.stat.pecErr } }) first)

theorem storeGroup_sameButReceived (m : MultiKind) (g : Nat) (r : Group) (bad : Bool) (x : Mirror) :
    sameButReceived m x (storeGroup (.multi m) g r bad x) := by
  cases m <;> rfl

/-- The loop changes no field of a mirror set but those received (R188, R189). -/
theorem readGroups_sameButReceived (m : MultiKind) {n : Nat} (small : n ≤ 32) (rev : Bool) (gs : List Nat) (s : State)
    (ic : Nat) : sameButReceived m (s.mirror ic) ((readGroups (.multi m) n rev gs s).2.mirror ic) := by
  induction gs generalizing s with
  | nil => exact sameButReceived_refl _ _
  | cons g gs ih =>
    refine sameButReceived_trans ?_ (ih _)
    rw [readGroup_mirror _ small]
    split
    · exact storeGroup_sameButReceived _ _ _ _ _
    · exact sameButReceived_refl _ _

end Sys2Proof.Machine
end

/-! ## `RDGRP` (R186) -/

section
namespace Sys2Proof.Machine

/-- What `RDGRP` does to the state `s`, which it takes to `t`, when it reads the groups `gs` of kind `k` (R186). -/
structure RdgrpRan (k : Kind) (n : Nat) (rev : Bool) (gs : List Nat) (s t : State) : Prop where
  trace : t.bus.trace = s.bus.trace ++ ((gs.zip (loopBytes k n rev gs s)).map fun x =>
    readEvents s.rom (s.params.cmdCode k .rd x.1) x.2.1 x.2.2).flatten
  csb : gs ≠ [] ∨ s.bus.csb = true → t.bus.csb = true
  rxbuf : ∀ r, (loopBytes k n rev gs s).getLast? = some r → holdsBytes t.rxbuf 0 r.2
  rxbufPast : ∀ a, 8 * n ≤ a → Memory.read t.rxbuf a = Memory.read s.rxbuf a
  mirror : ∀ ic, t.mirror ic = (readGroups k n rev gs s).2.mirror ic
  crcCount : t.crcCount = s.crcCount.set (kindIndex k)
    (s.crc k + BitVec.ofNat 16 ((loopBytes k n rev gs s).map fun r => (badFlags s.rom n r.2).count true).sum)
  bad : (∃ r ∈ loopBytes k n rev gs s, ∃ p < n, groupBad s.rom (groupAt r.2 p) = true) → t.res = .written 0xFFFF
  good : (∀ r ∈ loopBytes k n rev gs s, ∀ p < n, groupBad s.rom (groupAt r.2 p) = false) → t.res = .written 0x0000
  frame : t = { s with bus := t.bus, chain := t.chain, rxbuf := t.rxbuf, mirrors := t.mirrors, crcCount := t.crcCount
                       res := t.res }

/-- With every check passed, `RDGRP` reads the groups selected (R186). -/
theorem rdgrp_completes {s : State} {n : BitVec 8} {reg : BitVec 4} {k : Kind} {rev : Bool} (size : goodSize n s)
    (ok : selectable k reg s) (flags : sameFlags s n.toNat rev) :
    ∃ t, exec (.rdgrp (.named k) reg n) s = .next t ∧ RdgrpRan k n.toNat rev (selected k reg s) s t := by
  have bound := s.params.maxIc_bounds
  refine ⟨_, execRdgrp_eq_next.mpr ⟨size, k, _, rev, rfl, selectGroups_of_selectable ok, flags, rfl⟩, ?_⟩
  generalize selected k reg s = gs
  have anyBad := readGroups_anyBad k n.toNat rev gs s
  constructor
  case trace => exact readGroups_trace _ _ _ _ _
  case csb => exact readGroups_csb _ _ _ _ _
  case rxbuf => exact fun r => readGroups_rxbuf _ _ _ _ _
  case rxbufPast => exact (readGroups_kept k (by omega) rev gs s).rxbuf
  case mirror => exact fun _ => rfl
  case crcCount => exact readGroups_crcCount _ _ _ _ _
  case bad =>
    intro any
    simp [anyBad.mpr any, statusWord]
  case good =>
    intro all
    have clean : (readGroups k n.toNat rev gs s).1 = false := by
      rw [← Bool.not_eq_true, anyBad]
      rintro ⟨r, mem, p, lt, bad⟩
      rw [all r mem p lt] at bad
      cases bad
    simp [clean, statusWord]
  case frame =>
    obtain ⟨bus, rxbuf, mirrors, counts, frame⟩ := readGroups_frame k n.toNat rev gs s
    rw [frame]
    rfl

/-- Settles O38: the loop has one pass, which stores received group `p` in the mirror set of IC `map(p, N, rev)`. -/
theorem rdgrpFillsTheReceiveMirrors : Obligations.RdgrpFillsTheReceiveMirrors := by
  intro s n reg k rev size regOk flags
  have bound := s.params.maxIc_bounds
  have small : n.toNat ≤ 32 := by omega
  obtain ⟨t, run, ran⟩ := rdgrp_completes (k := .single k) size regOk flags
  obtain ⟨trace, csb, rxbuf, rxbufPast, mirror, crcCount, bad, good, frame⟩ := ran
  have one : loopBytes (.single k) n.toNat rev (selected (.single k) reg s) s =
    [passBytes (.single k) n.toNat 1 s] := rfl
  rw [one] at trace rxbuf crcCount bad good
  obtain ⟨cmdLength, length⟩ := passBytes_length (.single k) n.toNat 1 s
  refine ⟨t, _, _, run, cmdLength, length, by simpa [selected] using trace, csb (.inl (List.cons_ne_nil _ _)),
    rxbuf _ rfl, rxbufPast, ?inside, ?outside, by simpa using crcCount, fun any => bad (by simpa using any),
    fun all => good (by simpa using all), frame⟩
  case inside =>
    rintro p lt _ rfl
    refine ((mirror _).trans (readGroup_mirror (.single k) small rev 1 s (mapIndex p n.toNat rev))).trans ?_
    rw [if_pos (mapIndex_lt lt), mapIndex_mapIndex lt]
    rfl
  case outside => exact fun ic out => (mirror ic).trans (readGroups_mirror_outside _ small _ _ _ out)

theorem one_le_of_mem_selected {m : MultiKind} {reg : BitVec 4} {s : State} {g : Nat}
    (mem : g ∈ selected (.multi m) reg s) : 1 ≤ g := by
  by_cases zero : reg = 0
  · simp only [selected, zero, if_true] at mem
    exact (List.mem_range'_1.mp mem).1
  · simp only [selected, zero, if_false, List.mem_singleton] at mem
    bv_omega

theorem nodup_selected (m : MultiKind) (reg : BitVec 4) (s : State) : (selected (.multi m) reg s).Nodup := by
  by_cases zero : reg = 0
  · simp only [selected, zero, if_true]
    exact List.nodup_range'
  · simp only [selected, zero, if_false]
    exact List.nodup_singleton _

/-- Settles O39: the loop has a pass for each selected group, and each group is stored by its own pass alone. -/
theorem rdgrpReadsEverySelectedGroup : Obligations.RdgrpReadsEverySelectedGroup := by
  intro s n reg m rev size set regOk flags
  have bound := s.params.maxIc_bounds
  have small : n.toNat ≤ 32 := by omega
  obtain ⟨t, run, ran⟩ := rdgrp_completes (k := .multi m) size ⟨set, regOk⟩ flags
  have positive : ∀ g ∈ selected (.multi m) reg s, 1 ≤ g := fun g => one_le_of_mem_selected
  refine ⟨t, _, run, loopBytes_length _ _ _ _ _, fun r => length_of_mem_loopBytes _ _ _ _ _, ran.trace,
    fun high => ran.csb (.inr high), ran.rxbuf, ran.rxbufPast, ?stored, ?kept, fun ic => ?same, fun ic out => ?outside,
    ran.crcCount, ran.bad, ran.good, ran.frame⟩
  case stored =>
    intro j g r group received pos room p lt
    obtain ⟨x, last⟩ := readGroups_view_stored small (fun x => lastGroup m x g)
      (fun g' mem other => lastGroup_storeGroup_other (positive g' mem) pos other) (nodup_selected m reg s)
      (mapIndex_lt (rev := rev) lt) group received
    rw [lastGroup_storeGroup_same pos room, mapIndex_mapIndex lt, ← ran.mirror] at last
    exact last
  case kept =>
    intro ic g pos out
    rw [ran.mirror]
    exact readGroups_view_kept small (fun x => lastGroup m x g)
      (fun g' mem => lastGroup_storeGroup_other (positive g' mem) pos fun same => out (same ▸ mem)) rev s ic
  case same => exact ran.mirror ic ▸ readGroups_sameButReceived m small rev _ s ic
  case outside => exact (ran.mirror ic).trans (readGroups_mirror_outside _ small _ _ _ out)

/-- Settles O40: each selected group is decoded by its own pass alone, and no other pass changes its codes. -/
theorem rdgrpDecodesTheCellCodes : Obligations.RdgrpDecodesTheCellCodes := by
  intro s t n reg ic g run lt pos room
  obtain ⟨size, k, gs, rev, named, groups, -, rfl⟩ := execRdgrp_eq_next.mp run
  cases named
  have bound := s.params.maxIc_bounds
  have small : n.toNat ≤ 32 := by omega
  obtain ⟨set, regOk, -⟩ := selectGroups_multi.mp groups
  have same : selected (.multi .cv) reg s = gs :=
    Host.Outcome.next.inj ((selectGroups_of_selectable (k := .multi .cv) ⟨set, regOk⟩).symm.trans groups)
  subst same
  constructor
  · intro mem
    obtain ⟨j, inside, group⟩ := List.getElem_of_mem mem
    have pass : j < (loopBytes (.multi .cv) n.toNat rev (selected (.multi .cv) reg s) s).length := by simpa using inside
    obtain ⟨x, stored⟩ := readGroups_view_stored small (cellGroup g)
      (fun g' mem' other => cellGroup_storeGroup_other (one_le_of_mem_selected mem') pos other)
      (nodup_selected .cv reg s) lt (List.getElem?_eq_some_iff.mpr ⟨inside, group⟩)
      (List.getElem?_eq_getElem pass)
    rw [cellGroup_storeGroup_same pos room] at stored
    have codes (i : Fin 3) := congrFun (congrArg Prod.snd stored) i
    exact ⟨_, congrArg Prod.fst stored, codes 0, codes 1, codes 2⟩
  · intro out
    have kept := readGroups_view_kept small (cellGroup g) (fun g' mem' =>
      cellGroup_storeGroup_other (one_le_of_mem_selected mem') pos fun same => out (same ▸ mem')) rev s ic
    exact ⟨congrArg Prod.fst kept, fun i inside => congrFun (congrArg Prod.snd kept) ⟨i, inside⟩⟩

end Sys2Proof.Machine
end

/-! The proofs of the statements about how an operation or an access ends (60_exceptions.md): the number of events each
transaction and each pulse appends, from which the bound of every operation follows; and the run that goes on past a
refusal. -/

/-! ## How many events an operation appends (R128, R129, R151, R152, R234) -/

section
namespace Sys2Proof.Machine

@[simp] theorem spanEvents_length (pairs : List (Byte × Byte)) : (spanEvents pairs).length = pairs.length + 2 := by
  simp [spanEvents]

/-- A transaction that only sends has an event for each byte and the two of `CSB` (R121). -/
theorem sendTxn_trace_length (bytes : List Byte) (b : Bus) :
    (sendTxn bytes b).trace.length = b.trace.length + (bytes.length + 2) := by
  obtain ⟨rx, length, trace, -⟩ := sendTxn_span bytes b
  simp [trace, length]

/-- A write transaction of `N` groups of 6 bytes has `6 + 8N` events (R128). -/
theorem writeTxn_trace_length (rom : Vector Half 256) (c : Half) {groups : List (List Byte)}
    (six : ∀ d ∈ groups, d.length = 6) (b : Bus) :
    (writeTxn rom c groups b).trace.length = b.trace.length + (6 + 8 * groups.length) := by
  rw [writeTxn, sendTxn_trace_length, writeFrame_length rom c six]
  omega

/-- The events of a read transaction are those of the 4 bytes of the command frame, of the bytes received, and of `CSB`
(R82). -/
theorem readEvents_length (rom : Vector Half 256) (c : Half) {cmdRx rx : List Byte} (cmdLength : cmdRx.length = 4) :
    (readEvents rom c cmdRx rx).length = 6 + rx.length := by
  have pairs : ((cmdFrame rom c).zip cmdRx ++ (List.replicate rx.length 0xFF).zip rx).length = 4 + rx.length := by
    simp [cmdLength]
  rw [readEvents, spanEvents_length, pairs]
  omega

/-- A read transaction has `6 + 8N` events (R129). -/
theorem readTxn_trace_length (rom : Vector Half 256) (n : Nat) (c : Half) (b : Bus) :
    (readTxn rom n c b).2.trace.length = b.trace.length + (6 + 8 * n) := by
  obtain ⟨cmdRx, cmdLength, trace, -⟩ := readTxn_span rom n c b
  rw [trace, List.length_append, readEvents_length rom c cmdLength, readTxn_length]

/-- Each pulse of `WAKE_IDLE` has 3 events, and at most one gap after it (R151). -/
theorem wakeIdlePulses_trace_length_le (gap k : Nat) (b : Bus) :
    (wakeIdlePulses gap k b).trace.length ≤ b.trace.length + 4 * k := by
  induction k generalizing b with
  | zero => exact Nat.le_refl _
  | succ k ih =>
    have pulse : (wakeIdlePulse b).trace.length = b.trace.length + 3 :=
      wakeIdlePulse_eq b ▸ sendTxn_trace_length [Config.wakeDummyByte] b
    have gapped : ((wakeIdlePulse b).delay gap).trace.length = (wakeIdlePulse b).trace.length + 1 :=
      List.length_append
    refine (ih _).trans ?_
    split <;> omega

/-- Each pulse of `WAKE_SLEEP` has 4 events (R152). -/
theorem wakeSleepPulses_trace_length (k : Nat) (b : Bus) :
    (wakeSleepPulses k b).trace.length = b.trace.length + 4 * k := by
  induction k generalizing b with
  | zero => rfl
  | succ k ih =>
    have pulse : (wakeSleepPulse b).trace.length = b.trace.length + 4 := by
      simp [wakeSleepPulse_eq, wakeSleepEvents]
    rw [wakeSleepPulses, ih, pulse]
    omega

/-- The loop of `RDGRP` has one read transaction for each group (R187). -/
theorem readGroups_trace_length (k : Kind) (n : Nat) (rev : Bool) (gs : List Nat) (s : State) :
    (readGroups k n rev gs s).2.bus.trace.length = s.bus.trace.length + gs.length * (6 + 8 * n) := by
  induction gs generalizing s with
  | nil => simp [readGroups]
  | cons g gs ih =>
    have first : (readGroup k n rev g s).2.bus.trace.length = s.bus.trace.length + (6 + 8 * n) :=
      readTxn_trace_length _ _ _ _
    rw [readGroups, ih, first, List.length_cons, Nat.succ_mul gs.length]
    omega

/-- Each limit is a field of 4 bits, so `G(k)` is at most 15 (R31, R191). -/
theorem groupLimit_le (m : MultiKind) (l : Limits) : groupLimit m l ≤ 15 := by
  cases m with
  | cv => exact Nat.le_of_lt_succ l.numCv.isLt
  | aux => exact Nat.le_of_lt_succ l.numGpio.isLt
  | stat => exact Nat.le_of_lt_succ l.numStat.isLt

/-- A request names at most 15 groups (R76). -/
theorem selectGroups_length_le {k : Kind} {reg : BitVec 4} {s : State} {gs : List Nat}
    (groups : selectGroups k reg s = .next gs) : gs.length ≤ 15 := by
  cases k with
  | single sk =>
    obtain ⟨-, rfl⟩ := selectGroups_single.mp groups
    simp
  | multi m =>
    obtain ⟨-, -, rfl⟩ := selectGroups_multi.mp groups
    split
    · simpa using groupLimit_le m s.lim
    · simp

/-- Each of the groups of `BUF` has 6 bytes (R28). -/
theorem bufGroups_six {n : Nat} {s : State} {groups : List (List Byte)} (operand : bufGroups n s = .next groups) :
    ∀ d ∈ groups, d.length = 6 :=
  List.forall_mem_iff_forall_getElem.mpr fun p lt =>
    (Memory.readBytes_eq_next.mp ((bufGroups_eq_next.mp operand).2 p lt)).1

/-- Each of the groups that `WRGRP` marshals has 6 bytes (R33). -/
theorem txGroups_six {n : Nat} {rev : Bool} {k : SingleKind} {s : State} {groups : List (List Byte)}
    (marshalled : txGroups n rev k s = .next groups) : ∀ d ∈ groups, d.length = 6 :=
  List.forall_mem_iff_forall_getElem.mpr fun p lt => by
    simpa using (congrArg List.length (txGroup_eq_next.mp ((txGroups_eq_next.mp marshalled).2 p lt))).symm

/-- An operation appends at most the events of 15 transactions to the ICs it addresses. -/
theorem exec_trace_length_le {i : Instr} {s t : State} (run : exec i s = .next t) :
    t.bus.trace.length ≤ s.bus.trace.length + 15 * (6 + 8 * chainLength i) := by
  cases i with
  | pec15 =>
    obtain ⟨data, -, rfl⟩ := execPec15_eq_next.mp run
    exact Nat.le_add_right _ _
  | cmd =>
    obtain ⟨c, -, rfl⟩ := execCmd_eq_next.mp run
    refine (sendTxn_trace_length _ _).trans_le ?_
    rw [cmdFrame_length]
    omega
  | write n =>
    obtain ⟨-, c, groups, -, operand, rfl⟩ := execWrite_eq_next.mp run
    refine (writeTxn_trace_length _ _ (bufGroups_six operand) _).trans_le ?_
    rw [(bufGroups_eq_next.mp operand).1, chainLength]
    omega
  | read n =>
    obtain ⟨-, c, -, rfl⟩ := execRead_eq_next.mp run
    refine (readTxn_trace_length _ _ _ _).trans_le ?_
    rw [chainLength]
    omega
  | wakeIdle n =>
    obtain ⟨-, rfl⟩ := execWakeIdle_eq_next.mp run
    refine (wakeIdlePulses_trace_length_le _ _ _).trans ?_
    rw [chainLength]
    omega
  | wakeSleep n =>
    obtain ⟨-, rfl⟩ := execWakeSleep_eq_next.mp run
    refine (wakeSleepPulses_trace_length _ _).trans_le ?_
    rw [chainLength]
    omega
  | initLimits numStat =>
    obtain ⟨-, v, -, -, rfl⟩ := execInitLimits_eq_next.mp run
    exact Nat.le_add_right _ _
  | wrgrp kind reg n =>
    obtain ⟨-, k, rev, groups, -, -, -, marshalled, rfl⟩ := execWrgrp_eq_next.mp run
    refine (writeTxn_trace_length _ _ (txGroups_six marshalled) _).trans_le ?_
    rw [(txGroups_eq_next.mp marshalled).1, chainLength]
    omega
  | rdgrp kind reg n =>
    obtain ⟨-, k, gs, rev, -, groups, -, rfl⟩ := execRdgrp_eq_next.mp run
    refine (readGroups_trace_length _ _ _ _ _).trans_le (Nat.add_le_add_left ?_ _)
    exact Nat.mul_le_mul_right _ (selectGroups_length_le groups)

/-- An operation that completes addresses at most `MAX_IC` ICs (R77). -/
theorem chainLength_le_maxIc {i : Instr} {s t : State} (run : exec i s = .next t) :
    chainLength i ≤ s.params.maxIc := by
  cases i with
  | pec15 => exact Nat.zero_le _
  | cmd => exact Nat.zero_le _
  | write n => exact (execWrite_eq_next.mp run).1.2
  | read n => exact (execRead_eq_next.mp run).1.2
  | wakeIdle n => exact (execWakeIdle_eq_next.mp run).1.2
  | wakeSleep n => exact (execWakeSleep_eq_next.mp run).1.2
  | initLimits numStat => exact Nat.zero_le _
  | wrgrp kind reg n => exact (execWrgrp_eq_next.mp run).1.2
  | rdgrp kind reg n => exact (execRdgrp_eq_next.mp run).1.2

/-- Settles O49: the bound for the ICs the operation addresses, of which there are at most `MAX_IC`. -/
theorem operationTraceIsBounded : Obligations.OperationTraceIsBounded := by
  intro s t i run
  have events := exec_trace_length_le run
  have chain := chainLength_le_maxIc run
  omega

end Sys2Proof.Machine
end

/-! ## The run of the host's program past a refusal (R221) -/

section
namespace Sys2Proof.Machine

/-- A run whose first access is refused is the run of the rest, with one access fewer to make. -/
theorem runHost_succ_of_refused {s : State} {r : Refusal} (refused : step s = .refused r) (k : Nat) :
    runHost (k + 1) s = runHost k s.dropAccess := by
  simp [runHost, refused]

/-- Settles O10: the run goes on from the state with the access dropped, which differs in the host's list alone. -/
theorem refusedAccessHasNoEffect : Obligations.RefusedAccessHasNoEffect := by
  intro s a rest r k next refused
  have dropped : s.dropAccess = { s with host := rest } := by simp [State.dropAccess, State.setHost, next]
  rw [runHost_succ_of_refused refused, dropped]

end Sys2Proof.Machine
end

/-! ## Reset, waiting and a busy block (70_reset_and_hazards.md) -/

section
namespace Sys2Proof.Machine

/-- With no access to come, a step is a wait in which only the chain may time out (R156, R252). -/
theorem step_wait {s : State} (noAccess : s.host = []) : step s = .next s.timeouts := by
  simp [step, nextAction, noAccess]

/-- A busy block refuses the access, whatever it is (R254). -/
theorem step_busy {s : State} {a : HostAccess} {rest : List HostAccess} (busy : s.seq = .busy)
    (next : s.host = a :: rest) : step s = .refused .busy := by
  simp [step, nextAction, busy, next]

/-- Settles O8: the wait's next state is `s.timeouts`, an update of the chain. -/
theorem blockWaitsForTheHost : Obligations.BlockWaitsForTheHost :=
  fun s noAccess => ⟨s.timeouts, step_wait noAccess, rfl⟩

/-- Settles O9: the refusal of a busy block does not look at the access. -/
theorem busyBlockRefusesAccess : Obligations.BusyBlockRefusesAccess :=
  fun _ _ _ => step_busy

/-- Each tally of bad PECs starts at `CRC_COUNT_INIT` (R37, R250). -/
theorem State.reset_crc (k : Kind) : State.reset.crc k = Config.crcCountInit := by
  simp [State.crc, State.reset]

/-- No transmit byte, received group or flag of a single-group mirror is written at reset (R33, R250). -/
theorem SingleMirror.reset_unwritten :
    (∀ j : Fin 6, SingleMirror.reset.tx[j] = .unwritten) ∧ SingleMirror.reset.rx = .unwritten ∧
      SingleMirror.reset.pecErr = .unwritten :=
  ⟨fun _ => by simp [SingleMirror.reset], rfl, rfl⟩

/-- No group or flag of a kind with several groups is written at reset, whichever group is asked for (R34 to R36,
R250). -/
theorem Mirror.reset_lastGroup (m : MultiKind) (g : Nat) :
    lastGroup m Mirror.reset g = (.unwritten, .unwritten) := by
  have blank {α : Type} (n i : Nat) :
      ((Vector.replicate n (Slot.unwritten (α := α)))[i]?).getD .unwritten = .unwritten := by
    rw [Vector.getElem?_replicate]
    split <;> rfl
  cases m with
  | cv | aux | stat => exact Prod.ext (blank _ _) (blank _ _)

/-- No cell code is written at reset (R34, R250). -/
theorem Mirror.reset_cCodes (i : Fin 18) : Mirror.reset.cv.cCodes[i] = .unwritten := by
  simp [Mirror.reset]

/-- The never-written fields are unwritten at reset (R193, R250). -/
theorem Mirror.reset_undecoded : undecoded Mirror.reset := ⟨rfl, rfl, rfl, rfl, rfl⟩

/-- Settles O47: the fields of `State.reset` one by one, each mirror set being `Mirror.reset`, and the frame of a step
for `ROM`. -/
theorem resetLeavesEverythingUnwritten : Obligations.ResetLeavesEverythingUnwritten := by
  refine ⟨rfl, rfl, rfl, State.reset_crc, rfl, rfl, rfl, rfl, rfl, fun _ => rfl, fun _ => rfl, fun ic => ?mirror,
    readRoValue_lim_unset rfl, rfl, rfl, fun s t table run => (step_frame run).rom.trans table⟩
  case mirror =>
    rw [State.reset_mirror]
    refine ⟨rfl, fun k => ?_, fun m g _ => Mirror.reset_lastGroup m g, Mirror.reset_cCodes, Mirror.reset_undecoded⟩
    rw [Mirror.reset_get]
    exact SingleMirror.reset_unwritten

/-- Settles O46: both buffers and the trace are empty at reset, the limits are not set and every mirror set is
unwritten. -/
theorem resetMeetsTheInvariant : Obligations.ResetMeetsTheInvariant where
  rom := rfl
  idle := rfl
  csbHigh := rfl
  discipline := rfl
  bufWf := rfl
  rxbufWf := rfl
  limits := nofun
  undecodedMirrors ic := (State.reset_mirror ic).symm ▸ Mirror.reset_undecoded

end Sys2Proof.Machine
end
